-- ==== Sys2Proof/Word.lean ====
section
/-! DEFINITION. The widths, each a named constant with one definition (00_scope.md R6, R7; 92_eei_decisions.md D21), and the
word types of the block (R8): every other file takes its widths from here. -/

namespace Sys2Proof

/-! ### The widths of R6 -/

/-- `KIND_BITS`. -/
@[simp] abbrev kindBits : Nat := 8

/-- `P1_BITS`. -/
@[simp] abbrev p1Bits : Nat := 16

/-- `P2_BITS`. -/
@[simp] abbrev p2Bits : Nat := 16

/-- `PIN_BITS`: a pin number travels in p1. -/
@[simp] abbrev pinBits : Nat := 16

/-- `DUR_BITS`: a duration in microseconds travels in p1. -/
@[simp] abbrev durBits : Nat := 16

/-- `ANALOG_BITS`. -/
@[simp] abbrev analogBits : Nat := 8

/-! ### The notation's own widths (R8) -/

/-- The bits of a `u8`. -/
@[simp] abbrev byteBits : Nat := 8

/-- The bits of a `u16`, a field of two bytes. -/
@[simp] abbrev wordBits : Nat := 16

/-- The bits of a `u40`, a whole frame as one value. -/
@[simp] abbrev frameBits : Nat := 40

/-! ### The types -/

/-- `u8`: a byte of a stream. -/
abbrev Byte := BitVec byteBits

/-- `u16`: a two-byte field. -/
abbrev Word := BitVec wordBits

/-- The kind tag of a frame. -/
abbrev Kind := BitVec kindBits

/-- The first parameter of a frame. -/
abbrev Param1 := BitVec p1Bits

/-- The second parameter of a frame: a mode code, a level code, a percentage. -/
abbrev Param2 := BitVec p2Bits

/-- A pin number. -/
abbrev Pin := BitVec pinBits

/-- A duration in microseconds. -/
abbrev Duration := BitVec durBits

/-- An analog-equivalent intensity. -/
abbrev Analog := BitVec analogBits

end Sys2Proof
end

