-- ==== Sys2Proof/Config.lean ====
section
/-! DEFINITION. What the spec leaves open and no proof may fix: uninterpreted constants with no body. The OPEN parameters
that a claim must be able to name (VALID_PINS, RXQ0, CHANNEL_LOSSLESS, the brightness table) are fields of State. -/

namespace Sys2Proof

/-- The physical direction a mode code stands for. The source names input and output only (91_not_in_source.md N4). -/
inductive PinDirection where
  | input
  | output
  /-- a setting that is neither -/
  | other
  deriving DecidableEq, Repr, Inhabited

/-- The physical level a level code drives. The source names low and high only (N5). -/
inductive LineLevel where
  | low
  | high
  /-- a drive that is neither -/
  | other
  deriving DecidableEq, Repr, Inhabited

/-- `mode_interp` (00_scope.md R6, 92_eei_decisions.md D9): OPEN for every code. -/
opaque Config.modeInterp : Param2 → PinDirection

/-- `level_interp` on the codes other than LEVEL_LOW and LEVEL_HIGH (D8): OPEN. -/
opaque Config.levelOther : Param2 → LineLevel

/-- The u8 drawn for a brightness percentage above 100 (41_decoder.md R138, D10): any value, a fresh one for each number
of the draw (log entry 6). -/
opaque Config.brightnessDraw : Nat → Analog

/-- `IDLE_UNIT` (00_scope.md R6, D11): OPEN. The length of one unit of the idle interval in microseconds, rounded down to a
whole number, which keeps it a lower bound (log entry 29). -/
opaque Config.idleUnitUs : Nat

end Sys2Proof
end

