-- ==== Sys2Proof/Syntax.lean ====
section
/-! DEFINITION. The syntax of the block: the five bus operations (one constructor per row of the opcode table), the
client's requests for them, and the 5-byte frame that carries one operation. -/

namespace Sys2Proof

/-- The Bus Operation Set (00_scope.md R2): one constructor per row of spec/opcode_table.json, every operand an
immediate of the frame (30_encoding.md R73). The unused p2 of WAITUS and PULSE is no operand: the encoder writes it 0
and the decoder ignores it (R72, R77; log entry 14). -/
inductive Instr where
  /-- PINMODE, SetPinMode, kind 1. -/
  | pinmode (pin : Pin) (mode : Param2)
  /-- PINWRITE, SetPinLevel, kind 2. -/
  | pinwrite (pin : Pin) (level : Param2)
  /-- WAITUS, WaitMicroseconds, kind 3. -/
  | waitus (duration : Duration)
  /-- PULSE, PulseEnable, kind 4. -/
  | pulse (pin : Pin)
  /-- BRIGHT, SetBrightness, kind 5. -/
  | bright (pin : Pin) (percent : Param2)
  deriving DecidableEq, Repr

/-- A request as the client makes it at the encoder's port (40_encoder.md R100). The operands are the client's numbers,
of any size: whether they fit the port's 16 bits is checked there (R108). -/
inductive Request where
  | setPinMode (pin mode : Nat)
  | setPinLevel (pin level : Nat)
  | waitMicroseconds (duration : Nat)
  | pulseEnable (pin : Nat)
  | setBrightness (pin percent : Nat)
  deriving DecidableEq, Repr

/-- One frame as its three fields (30_encoding.md R70), what `parse` answers (41_decoder.md R123). -/
structure Frame where
  kind : Kind
  p1   : Param1
  p2   : Param2
  deriving DecidableEq, Repr

/-- What the bytes at the front of a stream are to the decoder (30_encoding.md R75, R76, R78): one of the five
operations, a whole frame of an unassigned kind, or fewer than 5 bytes. -/
inductive Decoded where
  /-- a whole frame of an assigned kind, and the bytes after it -/
  | operation (i : Instr) (rest : List Byte)
  /-- a whole frame whose kind is unassigned, by its kind, and the bytes after it -/
  | unrecognized (kind : Kind) (rest : List Byte)
  /-- 0 to 4 bytes: not a shorter frame -/
  | short (bs : List Byte)
  deriving DecidableEq, Repr

end Sys2Proof
end

