-- ==== Sys2Proof/WellFormed.lean ====
section
/-! DEFINITION. Well-formedness of what the client asks for: every operand fits the field it fills
(40_encoder.md R108). An `Instr` has no ill-formed term: its operands have their field's width by their type, and every
value of them encodes (R103 to R107). -/

namespace Sys2Proof

/-- A client's number fits an operand of the request port that is `width` bits wide. -/
def operandFits (width n : Nat) : Bool := decide (n < 2 ^ width)

/-- Each operand of the request fits its field, a u16 (R108, D2). -/
def Request.wellFormed : Request → Bool
  | .setPinMode pin mode => operandFits pinBits pin && operandFits p2Bits mode
  | .setPinLevel pin level => operandFits pinBits pin && operandFits p2Bits level
  | .waitMicroseconds duration => operandFits durBits duration
  | .pulseEnable pin => operandFits pinBits pin
  | .setBrightness pin percent => operandFits pinBits pin && operandFits p2Bits percent

end Sys2Proof
end

