-- ==== Sys2Proof/Decode.lean ====
section
/-! DEFINITION. The frame protocol FRM5: the kind codes, the serializer and the parser (byte order decided here, once),
the decoder of a frame and the encoder of an operation. -/

namespace Sys2Proof

/-! ### The literals of the frame format (00_scope.md R6, R7) -/

/-- `FRAME_BYTES`. -/
def frameBytes : Nat := 5

/-- `KIND_SETPINMODE`. -/
def kindSetPinMode : Kind := 1
/-- `KIND_SETPINLEVEL`. -/
def kindSetPinLevel : Kind := 2
/-- `KIND_WAITMICROSECONDS`. -/
def kindWaitMicroseconds : Kind := 3
/-- `KIND_PULSEENABLE`. -/
def kindPulseEnable : Kind := 4
/-- `KIND_SETBRIGHTNESS`. -/
def kindSetBrightness : Kind := 5

/-! ### Byte order (20_memory.md R50, R51) -/

/-- `v[7:0]`, the byte of a field that goes first. -/
def lowByte (v : Word) : Byte := v.extractLsb' 0 byteBits

/-- `v[15:8]`, the byte of a field that goes second. -/
def highByte (v : Word) : Byte := v.extractLsb' byteBits byteBits

/-- The field whose bytes are `lo` and then `hi`: `lo | (hi << 8)` (30_encoding.md R73). -/
def joinBytes (lo hi : Byte) : Word := lo.setWidth wordBits ||| (hi.setWidth wordBits <<< byteBits)

/-- The serializer `ser(kind, p1, p2)` (40_encoder.md R101). -/
def ser (f : Frame) : List Byte :=
  [f.kind, lowByte f.p1, highByte f.p1, lowByte f.p2, highByte f.p2]

/-- The parser (41_decoder.md R123): it answers for every 5 bytes and checks nothing. The field registers have no value
unless exactly 5 bytes were filled (10_state.md R27). -/
def parse : List Byte → Option Frame
  | [b0, b1, b2, b3, b4] => some { kind := b0, p1 := joinBytes b1 b2, p2 := joinBytes b3 b4 }
  | _ => none

/-- A frame as one `u40` value `F` (R51); the value the encoder's register `EF` takes (R101). -/
def Frame.bits (f : Frame) : BitVec frameBits :=
  f.kind.setWidth frameBits ||| (f.p1.setWidth frameBits <<< kindBits) |||
    (f.p2.setWidth frameBits <<< (kindBits + p1Bits))

/-- The fields of a 40-bit value: `kind = F[7:0]`, `p1 = F[23:8]`, `p2 = F[39:24]` (R51, R70). -/
def Frame.ofBits (F : BitVec frameBits) : Frame :=
  { kind := F.extractLsb' 0 kindBits
    p1 := F.extractLsb' kindBits p1Bits
    p2 := F.extractLsb' (kindBits + p1Bits) p2Bits }

/-- The bytes of a 40-bit value in stream order, `F[7:0]` first (R101). -/
def bitsBytes (F : BitVec frameBits) : List Byte :=
  [F.extractLsb' 0 byteBits, F.extractLsb' byteBits byteBits, F.extractLsb' (2 * byteBits) byteBits,
   F.extractLsb' (3 * byteBits) byteBits, F.extractLsb' (4 * byteBits) byteBits]

/-! ### Operations and frames (30_encoding.md R71, R72) -/

/-- The operation a frame selects, by its kind alone (R75); `none` for an unassigned kind (R76). The unused p2 of kinds
3 and 4 is not read (R77). -/
def decode (f : Frame) : Option Instr :=
  if f.kind = kindSetPinMode then some (.pinmode f.p1 f.p2)
  else if f.kind = kindSetPinLevel then some (.pinwrite f.p1 f.p2)
  else if f.kind = kindWaitMicroseconds then some (.waitus f.p1)
  else if f.kind = kindPulseEnable then some (.pulse f.p1)
  else if f.kind = kindSetBrightness then some (.bright f.p1 f.p2)
  else none

/-- The frame the encoder constructs for an operation (40_encoder.md R103 to R107): p2 is 0 where it is unused. -/
def Instr.toFrame : Instr → Frame
  | .pinmode pin mode => { kind := kindSetPinMode, p1 := pin, p2 := mode }
  | .pinwrite pin level => { kind := kindSetPinLevel, p1 := pin, p2 := level }
  | .waitus duration => { kind := kindWaitMicroseconds, p1 := duration, p2 := 0 }
  | .pulse pin => { kind := kindPulseEnable, p1 := pin, p2 := 0 }
  | .bright pin percent => { kind := kindSetBrightness, p1 := pin, p2 := percent }

/-- The bytes of an operation, in stream order. -/
def encode (i : Instr) : List Byte := ser i.toFrame

/-- A frame is canonical when its kind is assigned and its p2, where unused, is 0 (R77). -/
def Frame.canonical (f : Frame) : Bool :=
  match decode f with
  | some i => decide (i.toFrame = f)
  | none => false

/-- The decoder on any bytes: one outcome for each (R75), by name where it is no operation. -/
def decodeBytes : List Byte → Decoded
  | b0 :: b1 :: b2 :: b3 :: b4 :: rest =>
    match decode { kind := b0, p1 := joinBytes b1 b2, p2 := joinBytes b3 b4 } with
    | some i => .operation i rest
    | none => .unrecognized b0 rest
  | bs => .short bs

/-- Cutting a stream into consecutive 5-byte pieces and parsing each (41_decoder.md R136); a last piece of fewer than 5
bytes gives nothing. -/
def parseAll : List Byte → List Frame
  | b0 :: b1 :: b2 :: b3 :: b4 :: rest =>
    { kind := b0, p1 := joinBytes b1 b2, p2 := joinBytes b3 b4 } :: parseAll rest
  | _ => []

/-! ### The host's numbering of a table row's bits -/

/-- The instruction whose bits, numbered as spec/opcode_table.json numbers them, are the low `nbits` of `w`: its 5 bytes
in stream order, every bit above `nbits` 0 (20_memory.md R51). -/
def tableWordBytes (nbits w : Nat) : List Byte := bitsBytes (BitVec.ofNat frameBits (w % 2 ^ nbits))

/-- The instruction this decoder reads from a table word; `none` where it is no operation. -/
def decodeTableWord (nbits w : Nat) : Option Instr :=
  match decodeBytes (tableWordBytes nbits w) with
  | .operation i _ => some i
  | _ => none

end Sys2Proof
end

