-- ==== Sys2Proof/Machine/Constants.lean ====
section
/-! DEFINITION. The literals of 00_scope.md R6 that are not of the frame format, each a named constant (R7), and the
default brightness map. Each is used where the rule of its docstring says. -/

namespace Sys2Proof.Machine

/-- `RX_GATE_BYTES` (41_decoder.md R121, D3). -/
def Const.rxGateBytes : Nat := 1

/-- `LEVEL_LOW` (D8). -/
def Const.levelLow : Param2 := 0

/-- `LEVEL_HIGH` (D8). -/
def Const.levelHigh : Param2 := 1

/-- `T_PULSE_LOW_US` (R133). -/
def Const.tPulseLowUs : Duration := 1

/-- `T_PULSE_HIGH_US` (R133). -/
def Const.tPulseHighUs : Duration := 1

/-- `T_PULSE_SETTLE_US` (R133, C2). -/
def Const.tPulseSettleUs : Duration := 100

/-- `PCT_MAX` (R138). -/
def Const.pctMax : Nat := 100

/-- `BRIGHT_MIN` (10_state.md R28). -/
def Const.brightMin : Nat := 20

/-- `BRIGHT_MAX` (R28). -/
def Const.brightMax : Nat := 225

/-- The default of `IDLE_INTERVAL` (R28). -/
def Const.idleIntervalDefault : Nat := 100

/-- The default brightness map on a percentage up to 100 (41_decoder.md R139), truncating. PRESUMED (log entry 5). -/
def Const.defaultBrightness (p : Nat) : Analog :=
  BitVec.ofNat analogBits (Const.brightMin + p * (Const.brightMax - Const.brightMin) / Const.pctMax)

/-- The default map as the table of its values at 0 .. 100. -/
def Const.defaultBrightnessMap : List Analog := (List.range (Const.pctMax + 1)).map Const.defaultBrightness

/-- The pins State.reset takes for the OPEN set VALID_PINS: 0 .. 19. DESIGN CHOICE (log entry 4). -/
def Const.validPinsDefault : List Pin := (List.range 20).map (BitVec.ofNat pinBits)

/-- The longest wait one frame carries, in microseconds (R6, `DUR_BITS`; 70_reset_and_hazards.md R203). -/
def Const.maxWaitUs : Nat := 2 ^ durBits - 1

/-- The client's power-up wait, at least (R195, step 1). -/
def Const.minPowerUpUs : Nat := 50000

/-- The client's waits after the first and after the second negotiation write, at least (R195, R197). -/
def Const.minNegotiationUs : Nat := 4100

/-- The client's wait after the third negotiation write, at least (R195, R197). -/
def Const.minLastNegotiationUs : Nat := 150

/-- The client's wait after the clear command, at least (R195, step 5; R204). -/
def Const.minClearUs : Nat := 2000

/-- `INPUT`, an assembler spelling only (30_encoding.md R80). PRESUMED (log entry 19). -/
def Const.input : Nat := 0

/-- `OUTPUT`, an assembler spelling only (R80). PRESUMED (log entry 19). -/
def Const.output : Nat := 1

/-- `LOW`, the assembler's spelling of LEVEL_LOW (R80). -/
def Const.low : Nat := Const.levelLow.toNat

/-- `HIGH`, the assembler's spelling of LEVEL_HIGH (R80). -/
def Const.high : Nat := Const.levelHigh.toNat

end Sys2Proof.Machine
end

