-- ==== Sys2Proof/Machine/Framing.lean ====
section
/-! DEFINITION. Where a byte stands in the sender's frames: the breaks in the order of the sender's bytes, which the decoder
cannot see, as plain bookkeeping (20_memory.md R53, R54, R57; 70_reset_and_hazards.md R192; log entry 30). A place is a
number of bytes from a boundary of the sender's frames; only its remainder by FRAME_BYTES says anything. -/

namespace Sys2Proof.Machine

/-- A break in the order of the sender's bytes: `inserted` bytes stand in the place of `lost` ones. From offset `pos` on,
counted as RXPOS counts, the bytes are the sender's again. -/
structure Slip where
  pos      : Nat
  lost     : Nat
  inserted : Nat
  deriving DecidableEq, Repr

/-- How far a slip moves the decoder on in the sender's stream beyond the bytes it reads. -/
def Slip.net (x : Slip) : Int := x.lost - x.inserted

/-- What the slips behind offset `a`, up to `b`, add to the place in the sender's stream. -/
def netBetween (a b : Nat) (xs : List Slip) : Int :=
  ((xs.filter fun x => decide (a < x.pos ∧ x.pos ≤ b)).map Slip.net).sum

/-- What the slips up to offset `b` add to the place in the sender's stream. -/
def netUpTo (b : Nat) (xs : List Slip) : Int := ((xs.filter fun x => decide (x.pos ≤ b)).map Slip.net).sum

/-- What all the slips add. -/
def netAll (xs : List Slip) : Int := (xs.map Slip.net).sum

/-- The break before offset `pos` where the bytes from there on are at `place`, and would be at `here` without it; none
where the two are the same place of a frame. -/
def slipTo (pos : Nat) (here place : Int) : List Slip :=
  if (place - here) % frameBytes = 0 then []
  else [{ pos := pos, lost := ((place - here) % frameBytes).toNat, inserted := 0 }]

/-- A slip where the `lost` bytes from offset `start` on give way to `inserted` bytes: one before them stays, one within
them now stands behind the bytes put in their place, one after them moves along with the bytes there. -/
def Slip.shift (start lost inserted : Nat) (x : Slip) : Slip :=
  { x with
    pos := if x.pos ≤ start then x.pos
      else if x.pos ≤ start + lost then start + inserted
      else x.pos - lost + inserted }

end Sys2Proof.Machine
end

