-- ==== Sys2Proof/Machine/State.lean ====
section
/-! DEFINITION. The state of the block as plain data (10_state.md): the encoder, the channel, the decoder, the physical
I/O layer, the event trace, and the stimuli that are still to come. -/

namespace Sys2Proof.Machine

/-- A partial map from pin numbers to values (10_state.md R31): pairs in strictly rising order of the pin. A pin that is
not listed is ⊥, which is no value. The pin space is all the memory the block has (20_memory.md R59). -/
abbrev Memory (w : Nat) := List (Nat × BitVec w)

/-- The streams an encoder can be bound to. There is one (10_state.md R21). -/
inductive StreamId where
  | txq
  deriving DecidableEq, Repr

/-- What the decoder emits, in order (10_state.md R30). -/
inductive Event where
  /-- configure pin direction -/
  | pinMode (pin : Pin) (mode : Param2)
  /-- write pin level -/
  | pinWrite (pin : Pin) (level : Param2)
  /-- busy-wait microseconds -/
  | delayUs (d : Duration)
  /-- write analog-equivalent intensity -/
  | analogWrite (pin : Pin) (v : Analog)
  /-- the local diagnostic, with the unrecognized kind -/
  | diag (tag : Kind)
  /-- the idle yield, in IDLE_UNIT -/
  | idle (n : Nat)
  deriving DecidableEq, Repr

/-- Model-only records, which no output shows (R37). -/
inductive Record where
  /-- a short read discarded these `k` bytes -/
  | dropped (k : Nat) (bs : List Byte)
  deriving DecidableEq, Repr

/-- What can happen to the two devices from outside (60_exceptions.md R163, R174; 20_memory.md R57; 70 R190). Each runs to
its end before the next (R163). Log entries 1, 10 and 22. -/
inductive Stimulus where
  /-- the client issues a request, which runs the encoder -/
  | request (r : Request)
  /-- the channel takes up to `n` bytes from the front of TXQ -/
  | carry (n : Nat)
  /-- the channel hands up to `n` bytes in transit to the back of RXQ -/
  | deliver (n : Nat)
  /-- the channel puts `bs` in the place of up to `n` bytes in transit: loss, duplication, corruption, insertion -/
  | garble (n : Nat) (bs : List Byte)
  /-- the receiver's loop ticks the decoder -/
  | tick
  /-- power-up or construction of the decoder, with its RXQ0, the place in the sender's frames of RXQ0's first byte, and its
  idle interval -/
  | resetDecoder (rxq0 : List Byte) (startOffset : Nat) (idleInterval : Nat)
  /-- power-up or construction of the encoder, bound to a stream that holds `txq0` -/
  | resetEncoder (txq0 : List Byte)
  deriving DecidableEq, Repr

/-- The state. Every field but `slips`, `stimuli` and `draws` is named by the spec (INVENTORY.md, State). -/
structure State where
  /-- TX_DEST: the encoder's destination binding (R21) -/
  txDest : StreamId
  /-- EF: the encoder's transient frame register; no value between requests (R23) -/
  ef : Option (BitVec frameBits)
  /-- TXQ: the encoder's output stream, first-sent byte first (R22) -/
  txq : List Byte
  /-- the bytes the channel has taken and not yet delivered, oldest first (20_memory.md R57) -/
  transit : List Byte
  /-- CHANNEL_LOSSLESS (R57) -/
  channelLossless : Bool
  /-- the model's own: the breaks in the order of the sender's bytes, by loss or replacement on the channel (R57, last
  sentence) or by a start in the middle of a frame (R192; log entry 30) -/
  slips : List Slip
  /-- the place in the sender's frames of RXQ0's first byte: 0 where RXQ0 starts at a frame boundary (R192) -/
  startOffset : Nat
  /-- RXQ: the decoder's input stream, next byte first (R24) -/
  rxq : List Byte
  /-- FB: the bytes this tick's read has filled; none between ticks (R26) -/
  fb : List Byte
  /-- RXPOS: how many bytes RxRead has removed since the decoder started (R29) -/
  rxpos : Nat
  /-- IDLE_INTERVAL, in IDLE_UNIT (R28) -/
  idleInterval : Nat
  /-- VALID_PINS: the pins the physical I/O layer accepts (R38) -/
  validPins : List Pin
  /-- brightness_map on the percentages 0, 1, .. 100 (41_decoder.md R138) -/
  brightnessMap : List Analog
  /-- FAULT: the decoder's fault mark (R38) -/
  fault : Bool
  /-- PIN_MODE (R31) -/
  pinMode : Memory p2Bits
  /-- PIN_LEVEL (R31) -/
  pinLevel : Memory p2Bits
  /-- PIN_ANALOG (R31) -/
  pinAnalog : Memory analogBits
  /-- the ordered event trace, oldest first (R30) -/
  trace : List Event
  /-- the model-only records, oldest first (R37) -/
  records : List Record
  /-- the model's own: the stimuli still to come, oldest first (log entry 1) -/
  stimuli : List Stimulus
  /-- the model's own: the number of the next free brightness value (log entry 6) -/
  draws : Nat
  deriving DecidableEq, Repr

/-- Why the machine stops. -/
inductive Fault where
  /-- Raised by `tick` when FAULT is set: a faulted decoder takes no tick (10_state.md R38, 60_exceptions.md R164 (1)).
  Safe: the model stops where the block has no step. -/
  | decoderFaulted
  deriving DecidableEq, Repr

/-- Why the model gives a step no meaning. -/
inductive Refusal where
  /-- Raised by an arm of `exec` that has no meaning yet; no arm does. Safe. -/
  | notModelled (mnemonic : String)
  /-- Raised by `encoderRequest` for a request whose operand does not fit its field: the port does not take it, and the model
  refuses it rather than truncating it (40_encoder.md R108, D2). Safe. -/
  | operandTooWide
  /-- Raised by `channelGarble` where CHANNEL_LOSSLESS is true: such a channel changes nothing (20_memory.md R57). Safe. -/
  | channelIsLossless
  deriving DecidableEq, Repr

/-- What power-up and construction leave to the outside (10_state.md R41, 70_reset_and_hazards.md R190, R192, R193). -/
structure Setup where
  txq0            : List Byte
  transit0        : List Byte
  rxq0            : List Byte
  /-- the place in the sender's frames of RXQ0's first byte (R192) -/
  startOffset     : Nat
  idleInterval    : Nat
  validPins       : List Pin
  brightnessMap   : List Analog
  channelLossless : Bool
  stimuli         : List Stimulus
  deriving DecidableEq, Repr

/-- Both devices right after power-up or construction with this setup (R41). The sender's first frame begins behind the bytes
in TXQ, and the bytes in transit stand before those: the decoder is at the place of RXQ0's first byte, and there is a
break behind RXQ0 where the bytes in transit do not go on from it (R54, R192; log entry 30). -/
def State.construct (p : Setup) : State where
  txDest := .txq
  ef := none
  txq := p.txq0
  transit := p.transit0
  channelLossless := p.channelLossless
  slips := slipTo p.rxq0.length (p.startOffset + p.rxq0.length) (-(p.transit0.length + p.txq0.length : Int))
  startOffset := p.startOffset
  rxq := p.rxq0
  fb := []
  rxpos := 0
  idleInterval := p.idleInterval
  validPins := p.validPins
  brightnessMap := p.brightnessMap
  fault := false
  pinMode := []
  pinLevel := []
  pinAnalog := []
  trace := []
  records := []
  stimuli := p.stimuli
  draws := 0

/-- The setup of State.reset: the spec's defaults (IDLE_INTERVAL, R41; the default map, R139; CHANNEL_LOSSLESS, R6), and
for what the spec leaves OPEN the values of log entries 1, 3 and 4. -/
def Setup.default : Setup where
  txq0 := []
  transit0 := []
  rxq0 := []
  startOffset := 0
  idleInterval := Const.idleIntervalDefault
  validPins := Const.validPinsDefault
  brightnessMap := Const.defaultBrightnessMap
  channelLossless := true
  stimuli := []

/-- The machine right after reset (R41, R190). -/
def State.reset : State := State.construct Setup.default

end Sys2Proof.Machine
end

