-- ==== Sys2Proof/Machine/Ops.lean ====
section
/-! DEFINITION. The named operations over the streams, the frame buffer, the pin maps and the trace: the primitives of
00_scope.md R9 and the one way an error event is raised. -/

namespace Sys2Proof.Machine

/-! ### Pin maps (10_state.md R31) -/

/-- The canonical form: pins strictly rising, each below `2 ^ PIN_BITS`. Two maps in this form that read alike are equal. -/
abbrev Memory.wf {w : Nat} (m : Memory w) : Prop :=
  m.Pairwise (fun x y => x.1 < y.1) ∧ ∀ x ∈ m, x.1 < 2 ^ pinBits

/-- What the map lists under a key; an unlisted key is ⊥. -/
def Memory.lookup {w : Nat} : Memory w → Nat → Option (BitVec w)
  | [], _ => none
  | (b, v) :: m, a => if a = b then some v else Memory.lookup m a

/-- Putting a value under a key, in order. -/
def Memory.insert {w : Nat} : Memory w → Nat → BitVec w → Memory w
  | [], a, v => [(a, v)]
  | (b, u) :: m, a, v =>
    if a < b then (a, v) :: (b, u) :: m
    else if a = b then (a, v) :: m
    else (b, u) :: Memory.insert m a v

/-- `PIN_x[pin]`: `none` is ⊥ (R31). -/
def Memory.read {w : Nat} (m : Memory w) (pin : Pin) : Option (BitVec w) := m.lookup pin.toNat

/-- `PIN_x[pin] <- v` (R32 to R34). -/
def Memory.write {w : Nat} (m : Memory w) (pin : Pin) (v : BitVec w) : Memory w := m.insert pin.toNat v

/-! ### Events and records (10_state.md R30 to R38) -/

/-- The pin an event names, if it names one (R32 to R36). -/
def Event.pin? : Event → Option Pin
  | .pinMode pin _ => some pin
  | .pinWrite pin _ => some pin
  | .analogWrite pin _ => some pin
  | .delayUs _ => none
  | .diag _ => none
  | .idle _ => none

/-- What an event does to PIN_MODE (R32): only PinMode changes it. -/
def Event.onMode (e : Event) (m : Memory p2Bits) : Memory p2Bits :=
  match e with
  | .pinMode pin mode => m.write pin mode
  | .pinWrite _ _ => m
  | .delayUs _ => m
  | .analogWrite _ _ => m
  | .diag _ => m
  | .idle _ => m

/-- What an event does to PIN_LEVEL (R33): only PinWrite changes it. -/
def Event.onLevel (e : Event) (m : Memory p2Bits) : Memory p2Bits :=
  match e with
  | .pinMode _ _ => m
  | .pinWrite pin level => m.write pin level
  | .delayUs _ => m
  | .analogWrite _ _ => m
  | .diag _ => m
  | .idle _ => m

/-- What an event does to PIN_ANALOG (R34): only AnalogWrite changes it. -/
def Event.onAnalog (e : Event) (m : Memory analogBits) : Memory analogBits :=
  match e with
  | .pinMode _ _ => m
  | .pinWrite _ _ => m
  | .delayUs _ => m
  | .analogWrite pin v => m.write pin v
  | .diag _ => m
  | .idle _ => m

/-- The physical I/O layer accepts the event: the pin it names, if any, is in VALID_PINS (R32 to R34). -/
def Event.accepted (e : Event) (s : State) : Bool :=
  match e.pin? with
  | some pin => decide (pin ∈ s.validPins)
  | none => true

/-- An accepted event joins the trace and has its effect on the pin state. -/
def applyEvent (e : Event) (s : State) : State :=
  { s with
    trace := s.trace ++ [e]
    pinMode := e.onMode s.pinMode
    pinLevel := e.onLevel s.pinLevel
    pinAnalog := e.onAnalog s.pinAnalog }

/-- `raise InvalidPin(pin)` (R38): the one error event that leaves a mark. It sets FAULT and emits nothing; no state is
saved, nothing is transferred (60_exceptions.md R160, R165). There is no return from it: only `resetDecoderHalf` clears
the mark. -/
def raiseInvalidPin (s : State) : State := { s with fault := true }

/-- `Emit(e)` (00_scope.md R9). -/
def emit (e : Event) (s : State) : State :=
  if e.accepted s then applyEvent e s else raiseInvalidPin s

/-- A sequence of emissions. An error event ends it (R9: a raise is followed by the end of the tick). -/
def emitAll : List Event → State → State
  | [], s => s
  | e :: es, s => if e.accepted s then emitAll es (applyEvent e s) else raiseInvalidPin s

/-- `Record(r)` (R9, R37). -/
def record (r : Record) (s : State) : State := { s with records := s.records ++ [r] }

/-! ### Streams (20_memory.md R55, R58) -/

/-- `TxWrite(bs)`: appends to the stream the encoder is bound to, and always succeeds (40_encoder.md R102, D13). -/
def txWrite (bs : List Byte) (s : State) : State :=
  match s.txDest with
  | .txq => { s with txq := s.txq ++ bs }

/-- `EF <- F` (R101). -/
def setEf (F : BitVec frameBits) (s : State) : State := { s with ef := some F }

/-- The frame is discarded when the request ends (10_state.md R23). -/
def endRequest (s : State) : State := { s with ef := none }

/-- `RxAvail()`. -/
def rxAvail (s : State) : Nat := s.rxq.length

/-- `RxRead(n)` into FB: the first `min n |RXQ|` bytes leave RXQ, fill FB and are counted in RXPOS (R24, R26, R29). -/
def rxRead (n : Nat) (s : State) : State :=
  { s with
    rxq := s.rxq.drop n
    fb := s.rxq.take n
    rxpos := s.rxpos + (s.rxq.take n).length }

/-- `K <- 0`: FB holds no value at the start of a tick and after it (R26; 41_decoder.md R126). -/
def clearFb (s : State) : State := { s with fb := [] }

/-! ### Places in the sender's frames (20_memory.md R54, R57; 70_reset_and_hazards.md R192; log entry 30) -/

/-- The offset of the first byte in transit, counted as RXPOS counts. -/
def State.transitStart (s : State) : Nat := s.rxpos + s.rxq.length

/-- The offset behind the last byte in transit. -/
def State.transitEnd (s : State) : Nat := s.transitStart + s.transit.length

/-- The place in the sender's frames of the next byte the decoder reads: where it started, the bytes read, and the bytes
lost before it, which count as a short read's do (R57, last sentence). -/
def State.readOffset (s : State) : Int := s.startOffset + s.rxpos + netUpTo s.rxpos s.slips

/-- The place in the sender's frames of the first byte in transit. -/
def State.transitPlace (s : State) : Int := s.startOffset + s.transitStart + netUpTo s.transitStart s.slips

/-- The place in the sender's frames behind the last byte in transit, every slip counted. -/
def State.transitEndPlace (s : State) : Int := s.startOffset + s.transitEnd + netAll s.slips

/-- The replacement of up to `n` bytes at the front of the channel by `bs`, noted where it stands. -/
def replaceTransit (n : Nat) (bs : List Byte) (s : State) : State :=
  { s with
    transit := bs ++ s.transit.drop n
    slips := s.slips.map (Slip.shift s.transitStart (s.transit.take n).length bs.length) ++
      [{ pos := s.transitStart + bs.length, lost := (s.transit.take n).length, inserted := bs.length }] }

/-- The slips before a decoder that starts anew with `ahead` bytes in RXQ, the first of them at place `start`: a break
behind these bytes where those in transit do not go on from them, and what was noted further on in the channel. -/
def slipsAfterReset (ahead start : Nat) (s : State) : List Slip :=
  slipTo ahead (start + ahead) s.transitPlace ++
    (s.slips.filter fun x => decide (s.transitStart < x.pos)).map fun x =>
      { x with pos := x.pos - s.transitStart + ahead }

/-! ### The frame buffer (00_scope.md R9) -/

/-- `MemRead(i, n)`: the little-endian value of `n` bytes of FB from offset `i`; no value where a byte of them is not
filled (R26). -/
def memRead (fb : List Byte) : Nat → Nat → Option Nat
  | _, 0 => some 0
  | i, n + 1 =>
    match fb[i]?, memRead fb (i + 1) n with
    | some b, some v => some (b.toNat + 2 ^ byteBits * v)
    | _, _ => none

/-- `MemWrite(i, n, v)`: the `n` low bytes of `v`, little-endian, into FB from offset `i`. DESIGN CHOICE (log entry 27): a
byte whose offset is not filled, or lies past FB[4], is not written and FB stays as it is there; R9 does not say, and no
rule makes such a write. -/
def memWrite (fb : List Byte) : Nat → Nat → Nat → List Byte
  | _, 0, _ => fb
  | i, n + 1, v => memWrite (fb.set i (BitVec.ofNat byteBits v)) (i + 1) n (v / 2 ^ byteBits)

/-! ### Outcomes -/

/-- What follows a next state; a stop stays a stop. -/
def onNext (f : State → State) :
    Host.Outcome State Fault Refusal → Host.Outcome State Fault Refusal
  | .next s => .next (f s)
  | .fault r => .fault r
  | .refused r => .refused r

end Sys2Proof.Machine
end

