-- ==== Sys2Proof/Machine/Operands.lean ====
section
/-! DEFINITION. The operands: the field registers as views of FB, the meaning of level and mode codes, and the brightness
map. Every operand is an immediate of the frame (30_encoding.md R73): no register, no address mode. -/

namespace Sys2Proof.Machine

/-- `K` (10_state.md R26). -/
def State.k (s : State) : Nat := s.fb.length

/-- `KIND`, `P1`, `P2` as one frame (R27): no value unless K = 5. -/
def State.frameView (s : State) : Option Frame := parse s.fb

/-- `KIND` (R27). -/
def State.kindView (s : State) : Option Kind := s.frameView.map Frame.kind

/-- `P1` (R27). -/
def State.p1View (s : State) : Option Param1 := s.frameView.map Frame.p1

/-- `P2` (R27). -/
def State.p2View (s : State) : Option Param2 := s.frameView.map Frame.p2

/-- `level_interp` (R33, D8): 0 drives low, 1 drives high, any other code is open. -/
def levelInterp (code : Param2) : LineLevel :=
  if code = Const.levelLow then .low
  else if code = Const.levelHigh then .high
  else Config.levelOther code

/-- `mode_interp` (R32, D9). -/
def modeInterp (code : Param2) : PinDirection := Config.modeInterp code

/-- The physical direction a pin was last given; no value while PIN_MODE[pin] is ⊥. -/
def State.direction (s : State) (pin : Pin) : Option PinDirection := (s.pinMode.read pin).map modeInterp

/-- The level a pin was last driven to; no value while PIN_LEVEL[pin] is ⊥. What it means on a pin that is not an output,
or after an analog write, is not in the source (R33, R34). -/
def State.drivenLevel (s : State) (pin : Pin) : Option LineLevel := (s.pinLevel.read pin).map levelInterp

/-- The value of the map at a percentage the source describes, 0 to 100; `none` above (41_decoder.md R138). -/
def mapped (pct : Param2) (s : State) : Option Analog :=
  if pct.toNat ≤ Const.pctMax then s.brightnessMap[pct.toNat]? else none

/-- `brightness_map(P2)` and the state after it: the parameter's value on 0..100; above, a free value, drawn afresh
(R138, D10; log entry 6). -/
def brightness (pct : Param2) (s : State) : Analog × State :=
  match mapped pct s with
  | some v => (v, s)
  | none => (Config.brightnessDraw s.draws, { s with draws := s.draws + 1 })

end Sys2Proof.Machine
end

