-- ==== Sys2Proof/Machine/Flags.lean ====
section
/-! DEFINITION. The block has no flags and no condition codes (00_scope.md R10, 10_state.md R39): every instruction writes
none. What stands here is what can be asked of the state as yes or no, or read off its trace. -/

namespace Sys2Proof.Machine

/-- The decoder is aligned at a frame boundary of the sender's stream: RXPOS mod 5 = 0 under R54's assumptions; with loss
counted as a short read where the channel is not lossless (20_memory.md R54, R57), and from the place of its first byte
on where RXQ0 does not start at a boundary (70_reset_and_hazards.md R192). -/
def State.aligned (s : State) : Bool := s.readOffset % frameBytes == 0

/-- The arrival premise at a tick (41_decoder.md R137): RXQ is empty or holds at least a whole frame. -/
def State.wholeArrival (s : State) : Bool := s.rxq.isEmpty || decide (frameBytes ≤ s.rxq.length)

/-- The receiver's diagnostic output: the tags of the Diag events, in order (10_state.md R36). -/
def State.diagOutput (s : State) : List Kind :=
  s.trace.filterMap fun e =>
    match e with
    | .diag tag => some tag
    | .pinMode _ _ => none
    | .pinWrite _ _ => none
    | .delayUs _ => none
    | .analogWrite _ _ => none
    | .idle _ => none

/-- The lower bound an event puts on the time to the next one, in microseconds (R35). The idle yield counts
in IDLE_UNIT, whose length is a parameter (R171, D11; log entry 29). -/
def Event.minWaitUs : Event → Nat
  | .delayUs d => d.toNat
  | .pinMode _ _ => 0
  | .pinWrite _ _ => 0
  | .analogWrite _ _ => 0
  | .diag _ => 0
  | .idle n => n * Config.idleUnitUs

/-- The lower bound a list of events puts on the time it takes: waits add (R203). -/
def minWaitUs (es : List Event) : Nat := (es.map Event.minWaitUs).sum

/-- The idle units a list of events yields for, in IDLE_UNIT (R171). -/
def idleUnits (es : List Event) : Nat :=
  (es.map fun e =>
    match e with
    | .idle n => n
    | .pinMode _ _ => 0
    | .pinWrite _ _ => 0
    | .delayUs _ => 0
    | .analogWrite _ _ => 0
    | .diag _ => 0).sum

end Sys2Proof.Machine
end

