-- ==== Sys2Proof/Machine/Channel.lean ====
section
/-! DEFINITION. The channel from TXQ to RXQ (20_memory.md R57): first in, first out, any delay, any split. -/

namespace Sys2Proof.Machine

/-- The channel takes up to `n` bytes from the front of TXQ, in order (10_state.md R22). -/
def channelCarry (n : Nat) (s : State) : State :=
  { s with txq := s.txq.drop n, transit := s.transit ++ s.txq.take n }

/-- A prefix of the bytes in transit arrives at the back of RXQ (R57). On the receiver RXQ changes and nothing else
(60_exceptions.md R163). -/
def channelDeliver (n : Nat) (s : State) : State :=
  { s with transit := s.transit.drop n, rxq := s.rxq ++ s.transit.take n }

/-- Where the channel is not assumed lossless, any bytes can stand in the place of a prefix of those in transit (R57,
U17), and framing counts the loss (`State.aligned`). A lossless channel has no such step. -/
def channelGarble (n : Nat) (bs : List Byte) (s : State) : Host.Outcome State Fault Refusal :=
  if s.channelLossless then .refused .channelIsLossless
  else .next (replaceTransit n bs s)

end Sys2Proof.Machine
end

