-- ==== Sys2Proof/Machine/Bright.lean ====
section
/-! DEFINITION. The brightness family: SetBrightness at the decoder. -/

namespace Sys2Proof.Machine

/-- BRIGHT (41_decoder.md R134): the percentage is mapped here, on the remote side. -/
def execBright (pin : Pin) (percent : Param2) (s : State) : Host.Outcome State Fault Refusal :=
  .next (emit (.analogWrite pin (brightness percent s).1) (brightness percent s).2)

end Sys2Proof.Machine
end

