-- ==== Sys2Proof/Machine/Pin.lean ====
section
/-! DEFINITION. The pin family: SetPinMode and SetPinLevel at the decoder. -/

namespace Sys2Proof.Machine

/-- PINMODE (41_decoder.md R130): the mode code goes to the physical layer raw. -/
def execPinmode (pin : Pin) (mode : Param2) (s : State) : Host.Outcome State Fault Refusal :=
  .next (emit (.pinMode pin mode) s)

/-- PINWRITE (R131): the level code goes to the physical layer raw, whatever the pin's mode (10_state.md R33). -/
def execPinwrite (pin : Pin) (level : Param2) (s : State) : Host.Outcome State Fault Refusal :=
  .next (emit (.pinWrite pin level) s)

end Sys2Proof.Machine
end

