-- ==== Sys2Proof/Machine/Wait.lean ====
section
/-! DEFINITION. The wait family: WaitMicroseconds and the enable pulse at the decoder, both blocking (41_decoder.md R128). -/

namespace Sys2Proof.Machine

/-- WAITUS (R132): it names no pin; a duration of 0 imposes no wait (D24). -/
def execWaitus (duration : Duration) (s : State) : Host.Outcome State Fault Refusal :=
  .next (emit (.delayUs duration) s)

/-- The local pulse sequence on the enable pin (R133): low, high, low, each with its hold. -/
def pulseSequence (pin : Pin) : List Event :=
  [ .pinWrite pin Const.levelLow,  .delayUs Const.tPulseLowUs,
    .pinWrite pin Const.levelHigh, .delayUs Const.tPulseHighUs,
    .pinWrite pin Const.levelLow,  .delayUs Const.tPulseSettleUs ]

/-- PULSE (R133): all six events, or none and FAULT (60_exceptions.md R164). -/
def execPulse (pin : Pin) (s : State) : Host.Outcome State Fault Refusal :=
  .next (emitAll (pulseSequence pin) s)

end Sys2Proof.Machine
end

