-- ==== Sys2Proof/Machine/Dispatch.lean ====
section
/-! DEFINITION. Dispatch on the decoded operation (41_decoder.md R125): one arm per constructor of Instr. -/

namespace Sys2Proof.Machine

def exec (i : Instr) (s : State) : Host.Outcome State Fault Refusal :=
  match i with
  | .pinmode pin mode => Sys2Proof.Machine.execPinmode pin mode s
  | .pinwrite pin level => Sys2Proof.Machine.execPinwrite pin level s
  | .waitus duration => Sys2Proof.Machine.execWaitus duration s
  | .pulse pin => Sys2Proof.Machine.execPulse pin s
  | .bright pin percent => Sys2Proof.Machine.execBright pin percent s

end Sys2Proof.Machine
end

