-- ==== Sys2Proof/Machine/Decoder.lean ====
section
/-! DEFINITION. The decoder's tick (41_decoder.md R120 to R129): gate, read, short-read discard, dispatch, idle. -/

namespace Sys2Proof.Machine

/-- An unrecognized kind (R135): the diagnostic, and otherwise no effect. -/
def unknownKind (kind : Kind) (s : State) : State := emit (.diag kind) s

/-- A short read (R124): the bytes in FB are recorded as dropped; no event, no idle. -/
def shortRead (s : State) : State := record (.dropped s.k s.fb) s

/-- Dispatch on a full frame in FB by its kind (R123, R125), each executor once. FB holds 5 bytes here. -/
def dispatchFrame (f : Frame) (s : State) : Host.Outcome State Fault Refusal :=
  match decode f with
  | some i => exec i s
  | none => .next (unknownKind f.kind s)

/-- The tick after its read: what FB's contents make of it (R122 to R126). -/
def afterRead (s : State) : Host.Outcome State Fault Refusal :=
  match s.frameView with
  | some f => dispatchFrame f s
  | none => .next (shortRead s)

/-- One tick, run to its end (R120, R128), the checks in R164's order. -/
def tick (s : State) : Host.Outcome State Fault Refusal :=
  if s.fault then .fault .decoderFaulted
  else if rxAvail (clearFb s) < Const.rxGateBytes then .next (emit (.idle s.idleInterval) (clearFb s))
  else onNext clearFb (afterRead (rxRead frameBytes (clearFb s)))

/-- Power-up or construction of the decoder (70_reset_and_hazards.md R190, R191; 10_state.md R41), with the input stream,
its place in the sender's frames (R192) and the idle interval it is given. It is what clears FAULT. The pins hold no known value afterwards. -/
def resetDecoderHalf (rxq0 : List Byte) (startOffset idleInterval : Nat) (s : State) : State :=
  { s with
    slips := slipsAfterReset rxq0.length startOffset s, startOffset := startOffset
    rxq := rxq0, fb := [], rxpos := 0, idleInterval := idleInterval, fault := false
    pinMode := [], pinLevel := [], pinAnalog := [], trace := [], records := [] }

end Sys2Proof.Machine
end

