-- ==== Sys2Proof/Machine/Encoder.lean ====
section
/-! DEFINITION. The encoder (40_encoder.md): one request in, one 5-byte frame out, nothing executed locally. -/

namespace Sys2Proof.Machine

/-- An operand at the request port, `width` bits wide: a number that does not fit is not taken (R108, D2). -/
def portOperand (width n : Nat) : Option (BitVec width) :=
  if operandFits width n then some (BitVec.ofNat width n) else none

/-- The operation a request asks for, where every operand fits the port. No operand is checked otherwise (R103 to R107). -/
def Request.operation : Request → Option Instr
  | .setPinMode pin mode => do return .pinmode (← portOperand pinBits pin) (← portOperand p2Bits mode)
  | .setPinLevel pin level => do return .pinwrite (← portOperand pinBits pin) (← portOperand p2Bits level)
  | .waitMicroseconds duration => do return .waitus (← portOperand durBits duration)
  | .pulseEnable pin => do return .pulse (← portOperand pinBits pin)
  | .setBrightness pin percent => do return .bright (← portOperand pinBits pin) (← portOperand p2Bits percent)

/-- `TxWrite(ser(...))` for one operation (R101, R102): the frame is built in EF, written in one block, discarded. -/
def encoderWrite (i : Instr) (s : State) : State :=
  endRequest (txWrite (bitsBytes i.toFrame.bits) (setEf i.toFrame.bits s))

/-- One request, run to its end inside the client's call (R100). Nothing goes back to the client. -/
def encoderRequest (r : Request) (s : State) : Host.Outcome State Fault Refusal :=
  match Request.operation r with
  | some i => .next (encoderWrite i s)
  | none => .refused .operandTooWide

/-- Power-up or construction of the encoder (70_reset_and_hazards.md R190, 10_state.md R41): it has no state of its own
to reset; its stream holds what the stream's owner provides, and its frames begin behind that (20_memory.md R53; log entry 30). -/
def resetEncoderHalf (txq0 : List Byte) (s : State) : State :=
  { s with
    txDest := .txq, ef := none, txq := txq0
    slips := s.slips ++ slipTo s.transitEnd s.transitEndPlace (-(txq0.length : Int)) }

end Sys2Proof.Machine
end

