-- ==== Sys2Proof/Machine/Environment.lean ====
section
/-! DEFINITION. What drives the two devices (60_exceptions.md R163, R173): stimuli, one at a time, each run to its end. -/

namespace Sys2Proof.Machine

/-- The next stimulus, and the state in which it is no longer pending. Where none is pending, the receiver's loop ticks:
the tick is the one step the block has of itself (41_decoder.md R120; log entry 1). -/
def takeStimulus (s : State) : Stimulus × State :=
  match s.stimuli with
  | [] => (.tick, s)
  | x :: xs => (x, { s with stimuli := xs })

/-- What a stimulus does. -/
def runStimulus (x : Stimulus) (s : State) : Host.Outcome State Fault Refusal :=
  match x with
  | .request r => encoderRequest r s
  | .carry n => .next (channelCarry n s)
  | .deliver n => .next (channelDeliver n s)
  | .garble n bs => channelGarble n bs s
  | .tick => tick s
  | .resetDecoder rxq0 startOffset idleInterval => .next (resetDecoderHalf rxq0 startOffset idleInterval s)
  | .resetEncoder txq0 => .next (resetEncoderHalf txq0 s)

/-- The frame placed where the next tick reads it: at the front of RXQ; the next stimulus is a tick (log entry 2). -/
def placeFrame (bs : List Byte) (s : State) : State :=
  { s with
    rxq := bs ++ s.rxq
    stimuli := match (takeStimulus s).1 with
      | .tick => s.stimuli
      | .request _ => .tick :: s.stimuli
      | .carry _ => .tick :: s.stimuli
      | .deliver _ => .tick :: s.stimuli
      | .garble _ _ => .tick :: s.stimuli
      | .resetDecoder _ _ _ => .tick :: s.stimuli
      | .resetEncoder _ => .tick :: s.stimuli }

end Sys2Proof.Machine
end

