-- ==== Sys2Proof/Machine/Step.lean ====
section
/-! DEFINITION. One step of the machine, and where the host places an instruction for it. -/

namespace Sys2Proof.Machine

/-- One step: the next stimulus, run to its end. -/
def step (s : State) : Host.Outcome State Fault Refusal :=
  runStimulus (takeStimulus s).1 (takeStimulus s).2

/-- `s` with the instruction of a table word where the next step fetches it (log entry 2). -/
def State.withFetchWord (s : State) (nbits w : Nat) : State := placeFrame (tableWordBytes nbits w) s

end Sys2Proof.Machine
end

