-- ==== Sys2Proof/Machine/Assembler.lean ====
section
/-! DEFINITION. The spec's notation for frame programs (30_encoding.md R79 to R82): frames, raw bytes, and the
pseudo-operations, which expand into the client's requests and add nothing to the block. -/

namespace Sys2Proof.Machine

/-- `.pins RS=r, E=e, D=d0,d1,..., RW=w`: the client's pin configuration; `rw` is absent where RW is not wired (R81). -/
structure AsmPins where
  rs : Nat
  e  : Nat
  d  : List Nat
  rw : Option Nat
  deriving DecidableEq, Repr

/-- The directive configures 4 or 8 data pins (R81). -/
def AsmPins.wellFormed (p : AsmPins) : Bool := p.d.length == 4 || p.d.length == 8

/-- One line of a frame program. -/
inductive AsmLine where
  /-- one of the five mnemonics with its operands -/
  | op (r : Request)
  /-- `.frame k, a, b` -/
  | frame (k a b : Nat)
  /-- `.bytes b0, b1, ...` -/
  | bytes (bs : List Nat)
  /-- `NIBBLE n` -/
  | nibble (n : BitVec 4)
  /-- `SEND4 v, rs` (`rs` false: command, true: data) -/
  | send4 (v : Byte) (rs : Bool)
  /-- `SEND8 v, rs` -/
  | send8 (v : Byte) (rs : Bool)
  deriving DecidableEq, Repr

/-- A bit as the level code that spells it. -/
def bitLevel (b : Bool) : Nat := if b then Const.high else Const.low

/-- One PINWRITE for each data pin from bit `i` on, in the order of the pins: bit `i` on `D[i]` (R81, D18). -/
def dataWrites {w : Nat} (v : BitVec w) : Nat → List Nat → List Request
  | _, [] => []
  | i, d :: ds => .setPinLevel d (bitLevel (v.getLsbD i)) :: dataWrites v (i + 1) ds

/-- `NIBBLE n`: four data pins, then one pulse on E. -/
def nibbleRequests (p : AsmPins) (n : BitVec 4) : List Request :=
  dataWrites n 0 (p.d.take 4) ++ [.pulseEnable p.e]

/-- RS, and RW low where it is wired: written before the data lines (D18). -/
def selectRequests (p : AsmPins) (rs : Bool) : List Request :=
  .setPinLevel p.rs (bitLevel rs) :: (p.rw.toList.map fun w => .setPinLevel w Const.low)

/-- `SEND4 v, rs`: the high nibble, then the low nibble, each with its own pulse. -/
def send4Requests (p : AsmPins) (v : Byte) (rs : Bool) : List Request :=
  selectRequests p rs ++ nibbleRequests p (v.extractLsb' 4 4) ++ nibbleRequests p (v.extractLsb' 0 4)

/-- `SEND8 v, rs`: all eight data lines, then one pulse. -/
def send8Requests (p : AsmPins) (v : Byte) (rs : Bool) : List Request :=
  selectRequests p rs ++ dataWrites v 0 (p.d.take 8) ++ [.pulseEnable p.e]

/-- A number that must be a byte; a larger one is refused, not truncated (R79, D2). -/
def asmByte (n : Nat) : Option Byte := if n < 2 ^ byteBits then some (BitVec.ofNat byteBits n) else none

/-- The bytes of a list of requests, each of which the encoder must take. -/
def requestBytes : List Request → Option (List Byte)
  | [] => some []
  | r :: rs => do return encode (← Request.operation r) ++ (← requestBytes rs)

/-- The requests a line expands into; `none` for raw bytes, and for a pseudo-operation whose data pins are not
configured. -/
def AsmLine.requests (p : AsmPins) : AsmLine → Option (List Request)
  | .op r => some [r]
  | .frame _ _ _ => none
  | .bytes _ => none
  | .nibble n => if p.wellFormed then some (nibbleRequests p n) else none
  | .send4 v rs => if p.wellFormed then some (send4Requests p v rs) else none
  | .send8 v rs => if p.d.length = 8 then some (send8Requests p v rs) else none

/-- The requests a whole program expands into. -/
def programRequests (p : AsmPins) : List AsmLine → Option (List Request)
  | [] => some []
  | l :: ls => do return (← AsmLine.requests p l) ++ (← programRequests p ls)

/-- The bytes of a line; `none` where the assembler refuses it (R79). -/
def AsmLine.assemble (p : AsmPins) : AsmLine → Option (List Byte)
  | .frame k a b => do return ser { kind := ← asmByte k, p1 := ← portOperand p1Bits a, p2 := ← portOperand p2Bits b }
  | .bytes bs => bs.mapM asmByte
  | .op r => requestBytes [r]
  | .nibble n => do requestBytes (← AsmLine.requests p (.nibble n))
  | .send4 v rs => do requestBytes (← AsmLine.requests p (.send4 v rs))
  | .send8 v rs => do requestBytes (← AsmLine.requests p (.send8 v rs))

/-- The bytes of a program: its lines' bytes, with nothing between them. -/
def assemble (p : AsmPins) : List AsmLine → Option (List Byte)
  | [] => some []
  | l :: ls => do return (← AsmLine.assemble p l) ++ (← assemble p ls)

end Sys2Proof.Machine
end

