-- ==== Sys2Proof/Machine/Client.lean ====
section
/-! DEFINITION. The client's duties toward the display, as frame programs (70_reset_and_hazards.md R193 to R205): the waits it
must send, the initialization sequence, and output mode before a pin is driven. The block checks none of them (R194,
R196). -/

namespace Sys2Proof.Machine

/-- A wait of any length as WAITUS requests: as many of the longest as go into it, then the rest (R203). -/
def splitWait (us : Nat) : List Request :=
  List.replicate (us / Const.maxWaitUs) (.waitMicroseconds Const.maxWaitUs) ++
    (if us % Const.maxWaitUs = 0 then [] else [.waitMicroseconds (us % Const.maxWaitUs)])

/-- The bus width negotiated with the display (R195). -/
inductive BusWidth where
  | four
  | eight
  deriving DecidableEq, Repr

/-- The choices of an initialization sequence: pins, waits, and the display's own command codes, which the source does not
give (N16; log entry 19). -/
structure InitPlan where
  pins        : AsmPins
  width       : BusWidth
  powerUpUs   : Nat
  firstUs     : Nat
  secondUs    : Nat
  thirdUs     : Nat
  clearUs     : Nat
  negotiate   : BitVec 4
  select4     : BitVec 4
  functionSet : Byte
  displayOn   : Byte
  clear       : Byte
  entryMode   : Byte
  deriving DecidableEq, Repr

/-- The minimum waits of the source, in microseconds (R195, R197, C4). -/
def InitPlan.meetsMinimums (p : InitPlan) : Bool :=
  decide (Const.minPowerUpUs ≤ p.powerUpUs ∧ Const.minNegotiationUs ≤ p.firstUs ∧ Const.minNegotiationUs ≤ p.secondUs ∧
    Const.minLastNegotiationUs ≤ p.thirdUs ∧ Const.minClearUs ≤ p.clearUs)

/-- A wait as lines of a program: every delay is a frame (R201). -/
def waitLines (us : Nat) : List AsmLine := (splitWait us).map .op

/-- A command byte in the plan's bus width. -/
def InitPlan.command (p : InitPlan) (v : Byte) : AsmLine :=
  match p.width with
  | .four => .send4 v false
  | .eight => .send8 v false

/-- Every pin the sequence drives, made an output first (R196, D23). -/
def InitPlan.outputLines (p : InitPlan) : List AsmLine :=
  (p.pins.rs :: p.pins.e :: p.pins.d ++ p.pins.rw.toList).map fun n => .op (.setPinMode n Const.output)

/-- Step 2: three writes, each followed by its wait, and in 4-bit width the final selecting nibble (R195, R197). -/
def InitPlan.negotiationLines (p : InitPlan) : List AsmLine :=
  match p.width with
  | .four =>
    .nibble p.negotiate :: waitLines p.firstUs ++ .nibble p.negotiate :: waitLines p.secondUs ++
      .nibble p.negotiate :: waitLines p.thirdUs ++ [.nibble p.select4]
  | .eight =>
    p.command p.functionSet :: waitLines p.firstUs ++ p.command p.functionSet :: waitLines p.secondUs ++
      p.command p.functionSet :: waitLines p.thirdUs

/-- The sequence up to the negotiated width: outputs, the power-up wait, RS and E low, the negotiation. DESIGN CHOICE (log
entry 28): where RW is wired it is made an output but not written here; R195 and R81's NIBBLE do not say its level during
the 4-bit negotiation, and its first level write is that of the first SEND4 after it. -/
def InitPlan.prefixLines (p : InitPlan) : List AsmLine :=
  p.outputLines ++ waitLines p.powerUpUs ++
    [.op (.setPinLevel p.pins.rs Const.low), .op (.setPinLevel p.pins.e Const.low)] ++ p.negotiationLines

/-- The whole initialization sequence (R195, steps 1 to 6). -/
def InitPlan.lines (p : InitPlan) : List AsmLine :=
  p.prefixLines ++ [p.command p.functionSet, p.command p.displayOn, p.command p.clear] ++
    waitLines p.clearUs ++ [p.command p.entryMode]

/-- Every pin that a level write or a pulse drives has been made an output earlier in the program (R196); `outputs` are
the pins already so configured. -/
def outputsFirst (outputs : List Pin) : List Instr → Bool
  | [] => true
  | .pinmode pin mode :: is =>
    if mode = BitVec.ofNat p2Bits Const.output then outputsFirst (pin :: outputs) is
    else outputsFirst (outputs.filter (· ≠ pin)) is
  | .pinwrite pin _ :: is => decide (pin ∈ outputs) && outputsFirst outputs is
  | .waitus _ :: is => outputsFirst outputs is
  | .pulse pin :: is => decide (pin ∈ outputs) && outputsFirst outputs is
  | .bright _ _ :: is => outputsFirst outputs is

end Sys2Proof.Machine
end

