-- ==== Sys2Proof/Safety.lean ====
section
/-! DEFINITION. The terms in which claims about the machine are made: pins accepted, the sender's stream, what an operation
emits, good states, and running several operations directly. -/

namespace Sys2Proof.Machine

/-- The pin an operation names (20_memory.md R59); WAITUS names none. -/
def Instr.pin? : Instr → Option Pin
  | .pinmode pin _ => some pin
  | .pinwrite pin _ => some pin
  | .waitus _ => none
  | .pulse pin => some pin
  | .bright pin _ => some pin

/-- The operation names no pin outside VALID_PINS. -/
def Instr.pinAccepted (i : Instr) (s : State) : Bool :=
  match Instr.pin? i with
  | some pin => decide (pin ∈ s.validPins)
  | none => true

/-- A table with the properties R138 requires of brightness_map on 0..100. -/
abbrev BrightnessOk (t : List Analog) : Prop :=
  t.length = Const.pctMax + 1 ∧
  t[0]? = some (BitVec.ofNat analogBits Const.brightMin) ∧
  t[Const.pctMax]? = some (BitVec.ofNat analogBits Const.brightMax) ∧
  t.Pairwise (fun x y => x.toNat ≤ y.toNat)

/-- Every byte written and not yet read, the next to be read first: RXQ, the channel, TXQ (20_memory.md R57). -/
def State.stream (s : State) : List Byte := s.rxq ++ s.transit ++ s.txq

/-- The place in the sender's frames behind the last byte of TXQ, where the sender's next frame begins. -/
def State.sentOffset (s : State) : Int := s.startOffset + s.rxpos + s.stream.length + netAll s.slips

/-- What the frames of a list of requests are worth on the stream (40_encoder.md R110). -/
def frames (is : List Instr) : List Byte := is.flatMap encode

/-- The stream holds whole frames of the encoder from a boundary on, all with accepted pins. -/
def State.holdsFrames (s : State) (is : List Instr) : Prop :=
  s.stream = frames is ∧ ∀ i ∈ is, Instr.pinAccepted i s = true

/-- PIN_MODE as the events of a trace leave it, from ⊥ everywhere. -/
def replayMode (es : List Event) : Memory p2Bits := es.foldl (fun m e => e.onMode m) []

/-- PIN_LEVEL as the events of a trace leave it. -/
def replayLevel (es : List Event) : Memory p2Bits := es.foldl (fun m e => e.onLevel m) []

/-- PIN_ANALOG as the events of a trace leave it. -/
def replayAnalog (es : List Event) : Memory analogBits := es.foldl (fun m e => e.onAnalog m) []

/-- The invariant of the machine: the pin maps are canonical and are exactly what the trace has written; every event in
the trace was accepted; the transient registers hold nothing between steps; the brightness table has R138's
properties. -/
structure Inv (s : State) : Prop where
  modeWf      : s.pinMode.wf
  levelWf     : s.pinLevel.wf
  analogWf    : s.pinAnalog.wf
  modeTrace   : s.pinMode = replayMode s.trace
  levelTrace  : s.pinLevel = replayLevel s.trace
  analogTrace : s.pinAnalog = replayAnalog s.trace
  accepted    : ∀ e ∈ s.trace, e.accepted s = true
  efEmpty     : s.ef = none
  fbEmpty     : s.fb = []
  brightness  : BrightnessOk s.brightnessMap

/-- The operations carried out one after another, as a driver with the pins at hand would (00_scope.md R12, Direct
Driver), stopping where one does not answer a next state. -/
def runDirect : List Instr → State → Host.Outcome State Fault Refusal
  | [], s => .next s
  | i :: is, s =>
    match exec i s with
    | .next t => runDirect is t
    | .fault r => .fault r
    | .refused r => .refused r

/-- `n` steps, stopping where one does not answer a next state. -/
def steps : Nat → State → Host.Outcome State Fault Refusal
  | 0, s => .next s
  | n + 1, s =>
    match step s with
    | .next t => steps n t
    | .fault r => .fault r
    | .refused r => .refused r

/-- The stimuli that `n` steps take, oldest first, up to a step that does not answer a next state. -/
def taken : Nat → State → List Stimulus
  | 0, _ => []
  | n + 1, s =>
    (takeStimulus s).1 ::
      match step s with
      | .next t => taken n t
      | .fault _ => []
      | .refused _ => []

/-- A reset of the decoder, which starts RXPOS again. -/
def Stimulus.resetsDecoder : Stimulus → Bool
  | .request _ => false
  | .carry _ => false
  | .deliver _ => false
  | .garble _ _ => false
  | .tick => false
  | .resetDecoder _ _ _ => true
  | .resetEncoder _ => false

/-- A stimulus that replaces the decoder, the encoder's stream or the channel's bytes: what the laws of one run of the
lossless system exclude. -/
def Stimulus.replaces : Stimulus → Bool
  | .request _ => false
  | .carry _ => false
  | .deliver _ => false
  | .garble _ _ => true
  | .tick => false
  | .resetDecoder _ _ _ => true
  | .resetEncoder _ => true

/-- A run is good while the fault mark is clear (10_state.md R38: the faulted state is never a normal end state). -/
def State.good (s : State) : Bool := !s.fault

end Sys2Proof.Machine
end

