-- ==== Sys2Proof/Certificates/Slice0/Obligations.lean ====
section
/-! DEFINITION. The statements for the provers. Each docstring names the rules of spec/ a statement formalises; where a
clause rests on a choice of the model, it names the log entry. -/

open Sys2Proof Sys2Proof.Machine

/-! ### The frame format -/

/-- Decode and encode agree on every operation, with every operand at every value, whatever follows on the stream
(40_encoder.md R101, R103 to R107; 41_decoder.md R123, R125). -/
def Obligations.DecodeOfEncodeIsIdentity : Prop :=
  ∀ (i : Instr) (rest : List Byte), decodeBytes (encode i ++ rest) = .operation i rest

/-- R136: the parser undoes the serializer for every kind and both parameters; cutting the bytes of any list of requests
into 5-byte pieces and parsing each gives their tuples in order; and a tuple of kind 3 or 4 has p2 = 0. -/
def Obligations.ParserInvertsSerializer : Prop :=
  (∀ (k : Byte) (p1 p2 : Word),
      parse (ser { kind := k, p1 := p1, p2 := p2 }) = some { kind := k, p1 := p1, p2 := p2 }) ∧
  (∀ is : List Instr, parseAll (frames is) = is.map Instr.toFrame) ∧
  (∀ i : Instr, i.toFrame.kind = 3 ∨ i.toFrame.kind = 4 → i.toFrame.p2 = 0)

/-- R101: the serializer's five bytes, and that they are the bytes of the 40-bit value EF from EF[7:0] up. -/
def Obligations.SerializerIsFortyBitLittleEndian : Prop :=
  ∀ (k : Byte) (p1 p2 : Word),
    let f : Frame := { kind := k, p1 := p1, p2 := p2 }
    ser f = [k, p1.extractLsb' 0 8, p1.extractLsb' 8 8, p2.extractLsb' 0 8, p2.extractLsb' 8 8] ∧
    f.bits = k.setWidth 40 ||| (p1.setWidth 40 <<< 8) ||| (p2.setWidth 40 <<< 24) ∧
    ser f = [f.bits.extractLsb' 0 8, f.bits.extractLsb' 8 8, f.bits.extractLsb' 16 8,
             f.bits.extractLsb' 24 8, f.bits.extractLsb' 32 8]

/-- R51, R73: five bytes read as one 40-bit value give the fields kind = F[7:0], p1 = F[23:8], p2 = F[39:24], and these are
what the parser answers; the two bytes of a parameter lie low byte first. -/
def Obligations.FieldsOfFortyBitValue : Prop :=
  ∀ b0 b1 b2 b3 b4 : Byte,
    let F : BitVec 40 := b0.setWidth 40 ||| (b1.setWidth 40 <<< 8) ||| (b2.setWidth 40 <<< 16) |||
      (b3.setWidth 40 <<< 24) ||| (b4.setWidth 40 <<< 32)
    parse [b0, b1, b2, b3, b4] = some (Frame.ofBits F) ∧
    (Frame.ofBits F).kind = F.extractLsb' 0 8 ∧ (Frame.ofBits F).p1 = F.extractLsb' 8 16 ∧
    (Frame.ofBits F).p2 = F.extractLsb' 24 16 ∧
    (Frame.ofBits F).p1.toNat = b1.toNat + 256 * b2.toNat ∧
    (Frame.ofBits F).p2.toNat = b3.toNat + 256 * b4.toNat

/-- R75: under the mask 0xFF the kind alone selects the operation; every 40-bit pattern has one outcome, one of the five
operations or unrecognized. -/
def Obligations.KindAloneSelectsOperation : Prop :=
  ∀ F : BitVec 40,
    let f := Frame.ofBits F
    (F &&& 0xFF#40 = 1#40 → decode f = some (.pinmode f.p1 f.p2)) ∧
    (F &&& 0xFF#40 = 2#40 → decode f = some (.pinwrite f.p1 f.p2)) ∧
    (F &&& 0xFF#40 = 3#40 → decode f = some (.waitus f.p1)) ∧
    (F &&& 0xFF#40 = 4#40 → decode f = some (.pulse f.p1)) ∧
    (F &&& 0xFF#40 = 5#40 → decode f = some (.bright f.p1 f.p2)) ∧
    (F &&& 0xFF#40 ≠ 1#40 ∧ F &&& 0xFF#40 ≠ 2#40 ∧ F &&& 0xFF#40 ≠ 3#40 ∧ F &&& 0xFF#40 ≠ 4#40 ∧
      F &&& 0xFF#40 ≠ 5#40 → decode f = none)

/-- R75, R77: which frames are canonical; the encoder's are; and a frame with a nonzero unused p2 selects the very operation
of the canonical frame with the same kind and p1. (That it is then carried out alike is NonCanonicalFrameTicksLikeCanonical.) -/
def Obligations.UnusedParameterIsIgnored : Prop :=
  (∀ p1 p2 : Word,
    (({ kind := 3, p1 := p1, p2 := p2 } : Frame).canonical = true ↔ p2 = 0) ∧
    (({ kind := 4, p1 := p1, p2 := p2 } : Frame).canonical = true ↔ p2 = 0) ∧
    decode { kind := 3, p1 := p1, p2 := p2 } = decode { kind := 3, p1 := p1, p2 := 0 } ∧
    decode { kind := 4, p1 := p1, p2 := p2 } = decode { kind := 4, p1 := p1, p2 := 0 } ∧
    ({ kind := 1, p1 := p1, p2 := p2 } : Frame).canonical = true ∧
    ({ kind := 2, p1 := p1, p2 := p2 } : Frame).canonical = true ∧
    ({ kind := 5, p1 := p1, p2 := p2 } : Frame).canonical = true) ∧
  (∀ f : Frame, f.kind ≠ 1 ∧ f.kind ≠ 2 ∧ f.kind ≠ 3 ∧ f.kind ≠ 4 ∧ f.kind ≠ 5 → f.canonical = false) ∧
  (∀ i : Instr, i.toFrame.canonical = true)

/-- A few words written out from the encoding (30_encoding.md R70, R79; 95_test_vectors.md W1, E1, E5, E11, V12, V18, V21)
decode to the operations they stand for. -/
def Obligations.SpecWordsDecode : Prop :=
  decodeBytes [0x02, 0x07, 0x00, 0x01, 0x00] = .operation (.pinwrite 7 1) [] ∧
  decodeBytes [0x01, 0x0A, 0x00, 0x01, 0x00] = .operation (.pinmode 10 1) [] ∧
  decodeBytes [0x02, 0x34, 0x12, 0xCD, 0xAB] = .operation (.pinwrite 0x1234 0xABCD) [] ∧
  decodeBytes [0x03, 0x04, 0x10, 0x00, 0x00] = .operation (.waitus 4100) [] ∧
  decodeBytes [0x04, 0x0B, 0x00, 0xFF, 0xFF] = .operation (.pulse 11) [] ∧
  decodeBytes [0x05, 0x09, 0x00, 0x65, 0x00] = .operation (.bright 9 101) [] ∧
  decodeBytes [0x06, 0x0A, 0x00, 0x01, 0x00] = .unrecognized 6 []

/-! ### The encoder -/

/-- R103 to R107 (and R102): each request is taken in every state, with every 16-bit operand, and leaves its one frame at
the end of TXQ and nothing else changed; EF holds no value afterwards. -/
def Obligations.RequestWritesItsFrame : Prop :=
  ∀ (a b : Word) (s : State),
    encoderRequest (.setPinMode a.toNat b.toNat) s =
      .next { s with txq := s.txq ++ ser { kind := 0x01, p1 := a, p2 := b }, ef := none } ∧
    encoderRequest (.setPinLevel a.toNat b.toNat) s =
      .next { s with txq := s.txq ++ ser { kind := 0x02, p1 := a, p2 := b }, ef := none } ∧
    encoderRequest (.waitMicroseconds a.toNat) s =
      .next { s with txq := s.txq ++ ser { kind := 0x03, p1 := a, p2 := 0 }, ef := none } ∧
    encoderRequest (.pulseEnable a.toNat) s =
      .next { s with txq := s.txq ++ ser { kind := 0x04, p1 := a, p2 := 0 }, ef := none } ∧
    encoderRequest (.setBrightness a.toNat b.toNat) s =
      .next { s with txq := s.txq ++ ser { kind := 0x05, p1 := a, p2 := b }, ef := none }

/-- R108: a request is taken exactly when every operand fits 16 bits; one that does not fit is refused, not truncated. -/
def Obligations.TooWideRequestIsRefused : Prop :=
  ∀ (r : Request) (s : State),
    (r.wellFormed = true → ∃ t, encoderRequest r s = .next t) ∧
    (r.wellFormed = false → encoderRequest r s = .refused .operandTooWide)

/-- R109: whatever the request, the encoder writes one frame of kind 1 to 5, with p2 = 0 for kinds 3 and 4. -/
def Obligations.EncoderWritesOnlyCanonicalFrames : Prop :=
  ∀ (r : Request) (s t : State), encoderRequest r s = .next t →
    ∃ f : Frame, t.txq = s.txq ++ ser f ∧
      (f.kind = 1 ∨ f.kind = 2 ∨ f.kind = 3 ∨ f.kind = 4 ∨ f.kind = 5) ∧
      (f.kind = 3 ∨ f.kind = 4 → f.p2 = 0) ∧ f.canonical = true

/-- R110: after any list of requests the stream holds one frame per request, in the order of the requests, with nothing
between them; n requests write 5n bytes, and the j-th frame (from 0) starts at offset 5j of what they wrote. -/
def Obligations.RequestsAppearInOrder : Prop :=
  ∀ (rs : List Request) (is : List Instr) (s : State),
    rs.map Request.operation = is.map some → s.stimuli = rs.map Stimulus.request →
    ∃ t, steps rs.length s = .next t ∧ t.txq = s.txq ++ frames is ∧
      (frames is).length = 5 * rs.length ∧
      ∀ (j : Nat) (h : j < is.length), ((frames is).drop (5 * j)).take 5 = encode is[j]

/-- 70_reset_and_hazards.md R202, 20_memory.md R57: nothing comes back to the sender. In two states that agree on the
sender's side alone, a request ends the same way and leaves the same output stream; and a tick of the decoder leaves
the sender's side and the channel as they were. -/
def Obligations.ReceiverCannotInfluenceSender : Prop :=
  (∀ (r : Request) (s₁ s₂ : State), s₁.txDest = s₂.txDest → s₁.txq = s₂.txq →
    (∃ t₁ t₂, encoderRequest r s₁ = .next t₁ ∧ encoderRequest r s₂ = .next t₂ ∧ t₁.txq = t₂.txq) ∨
    (encoderRequest r s₁ = .refused .operandTooWide ∧ encoderRequest r s₂ = .refused .operandTooWide)) ∧
  (∀ s t : State, tick s = .next t →
    t.txDest = s.txDest ∧ t.ef = s.ef ∧ t.txq = s.txq ∧ t.transit = s.transit ∧ t.stimuli = s.stimuli)

/-! ### The operations at the decoder -/

/-- R130: a frame of kind 1 is PINMODE with pin P1 and mode P2; on an accepted pin PINMODE emits PinMode(pin, mode) with the raw mode; otherwise it sets FAULT and emits nothing. -/
def Obligations.PinmodeEmitsPinMode : Prop :=
  ∀ (pin mode : Word) (s : State),
    decode { kind := 0x01, p1 := pin, p2 := mode } = some (.pinmode pin mode) ∧
    (pin ∈ s.validPins → exec (.pinmode pin mode) s =
      .next { s with trace := s.trace ++ [.pinMode pin mode], pinMode := s.pinMode.write pin mode }) ∧
    (pin ∉ s.validPins → exec (.pinmode pin mode) s = .next { s with fault := true })

/-- R131: a frame of kind 2 is PINWRITE with pin P1 and level P2; on an accepted pin PINWRITE emits exactly one PinWrite(pin, level) with the raw level; otherwise it sets FAULT and
emits nothing. -/
def Obligations.PinwriteEmitsPinWrite : Prop :=
  ∀ (pin level : Word) (s : State),
    decode { kind := 0x02, p1 := pin, p2 := level } = some (.pinwrite pin level) ∧
    (pin ∈ s.validPins → exec (.pinwrite pin level) s =
      .next { s with trace := s.trace ++ [.pinWrite pin level], pinLevel := s.pinLevel.write pin level }) ∧
    (pin ∉ s.validPins → exec (.pinwrite pin level) s = .next { s with fault := true })

/-- R132: a frame of kind 3 is WAITUS with duration P1, whatever its P2; WAITUS emits DelayUs(duration) in every state,
whatever VALID_PINS holds, and changes nothing else; the event bounds the time to the next one below by the duration, so
0 imposes no wait. -/
def Obligations.WaitusEmitsDelay : Prop :=
  ∀ (duration p2 : Word) (s : State),
    decode { kind := 0x03, p1 := duration, p2 := p2 } = some (.waitus duration) ∧
    exec (.waitus duration) s = .next { s with trace := s.trace ++ [.delayUs duration] } ∧
    minWaitUs [.delayUs duration] = duration.toNat

/-- R133: a frame of kind 4 is PULSE on pin P1, whatever its P2; on an accepted pin PULSE emits its six events in order and leaves PIN_LEVEL[pin] = 0, whatever it was, every other
entry and PIN_MODE unchanged; otherwise it sets FAULT before any event. -/
def Obligations.PulseEmitsSixEvents : Prop :=
  ∀ (pin p2 : Word) (s : State),
    decode { kind := 0x04, p1 := pin, p2 := p2 } = some (.pulse pin) ∧
    (pin ∈ s.validPins → exec (.pulse pin) s =
      .next { s with
        trace := s.trace ++ [.pinWrite pin 0, .delayUs 1, .pinWrite pin 1, .delayUs 1, .pinWrite pin 0, .delayUs 100],
        pinLevel := s.pinLevel.write pin 0 }) ∧
    (pin ∉ s.validPins → exec (.pulse pin) s = .next { s with fault := true })

/-- R134 on the percentages 0 to 100, for every brightness table with R138's properties: on an accepted pin BRIGHT emits
AnalogWrite(pin, v) with v the table's value, which is 20 for 0 and 225 for 100; on any other pin it sets FAULT and
emits nothing. -/
def Obligations.BrightEmitsMappedPercent : Prop :=
  ∀ (pin percent : Word) (s : State), BrightnessOk s.brightnessMap → percent.toNat ≤ 100 →
    decode { kind := 0x05, p1 := pin, p2 := percent } = some (.bright pin percent) ∧
    (pin ∈ s.validPins → ∃ v : Byte, s.brightnessMap[percent.toNat]? = some v ∧
      (percent = 0 → v = 20) ∧ (percent = 100 → v = 225) ∧
      exec (.bright pin percent) s =
        .next { s with trace := s.trace ++ [.analogWrite pin v], pinAnalog := s.pinAnalog.write pin v }) ∧
    (pin ∉ s.validPins → exec (.bright pin percent) s = .next { s with fault := true })

/-- R134 above 100 (R138, D10): BRIGHT completes, and its intensity is the free value of the current draw, about which
nothing is known. That each such operation takes a fresh draw is the model's choice (log entry 6). -/
def Obligations.BrightAboveHundredTakesFreeValue : Prop :=
  ∀ (pin percent : Word) (s : State), 100 < percent.toNat →
    (pin ∈ s.validPins → exec (.bright pin percent) s =
      .next { s with
        trace := s.trace ++ [.analogWrite pin (Config.brightnessDraw s.draws)],
        pinAnalog := s.pinAnalog.write pin (Config.brightnessDraw s.draws),
        draws := s.draws + 1 }) ∧
    (pin ∉ s.validPins → exec (.bright pin percent) s = .next { s with fault := true, draws := s.draws + 1 })

/-- The frame of the five operations (R141; 10_state.md R32 to R36): whatever an operation does, the streams, the
configuration, FB, RXPOS, EF, the records and the pending stimuli are as before; FAULT is set exactly when the named pin
is not accepted, and else as before; the draw counter moves only for BRIGHT above 100 (log entry 6); the trace keeps
what it held; PIN_MODE reads as before everywhere but at PINMODE's pin, PIN_LEVEL but at PINWRITE's and PULSE's, and
PIN_ANALOG but at BRIGHT's. -/
def Obligations.OperationsFrame : Prop :=
  ∀ (i : Instr) (s t : State), exec i s = .next t →
    t.txDest = s.txDest ∧ t.ef = s.ef ∧ t.txq = s.txq ∧ t.transit = s.transit ∧
    t.channelLossless = s.channelLossless ∧ t.slips = s.slips ∧ t.startOffset = s.startOffset ∧ t.rxq = s.rxq ∧ t.fb = s.fb ∧ t.rxpos = s.rxpos ∧
    t.idleInterval = s.idleInterval ∧ t.validPins = s.validPins ∧ t.brightnessMap = s.brightnessMap ∧
    t.records = s.records ∧ t.stimuli = s.stimuli ∧
    t.fault = (s.fault || !Instr.pinAccepted i s) ∧
    (t.draws ≠ s.draws → ∃ pin percent, i = .bright pin percent ∧ mapped percent s = none) ∧
    s.trace <+: t.trace ∧
    ∀ q : Word,
      (t.pinMode.read q ≠ s.pinMode.read q → ∃ mode, i = .pinmode q mode) ∧
      (t.pinLevel.read q ≠ s.pinLevel.read q → (∃ level, i = .pinwrite q level) ∨ i = .pulse q) ∧
      (t.pinAnalog.read q ≠ s.pinAnalog.read q → ∃ percent, i = .bright q percent)

/-- R32, R33, R34: the effect of the three pin events. On a pin in VALID_PINS the event writes its value at that pin of its
own map, whatever the pin's mode is, leaves every other entry and the other two maps alone, and the value means what
mode_interp or level_interp says (0 low, 1 high); on any other pin it raises InvalidPin, which sets FAULT and nothing
else. -/
def Obligations.PinEventsWriteOneEntry : Prop :=
  ∀ (pin v : Word) (b : Byte) (s : State),
    (pin ∈ s.validPins →
      (let t := emit (.pinMode pin v) s
       t.pinMode.read pin = some v ∧ (∀ q, q ≠ pin → t.pinMode.read q = s.pinMode.read q) ∧
       t.pinLevel = s.pinLevel ∧ t.pinAnalog = s.pinAnalog ∧ t.direction pin = some (Config.modeInterp v)) ∧
      (let t := emit (.pinWrite pin v) s
       t.pinLevel.read pin = some v ∧ (∀ q, q ≠ pin → t.pinLevel.read q = s.pinLevel.read q) ∧
       t.pinMode = s.pinMode ∧ t.pinAnalog = s.pinAnalog ∧
       (v = 0 → t.drivenLevel pin = some .low) ∧ (v = 1 → t.drivenLevel pin = some .high)) ∧
      (let t := emit (.analogWrite pin b) s
       t.pinAnalog.read pin = some b ∧ (∀ q, q ≠ pin → t.pinAnalog.read q = s.pinAnalog.read q) ∧
       t.pinMode = s.pinMode ∧ t.pinLevel = s.pinLevel)) ∧
    (pin ∉ s.validPins →
      emit (.pinMode pin v) s = { s with fault := true } ∧ emit (.pinWrite pin v) s = { s with fault := true } ∧
      emit (.analogWrite pin b) s = { s with fault := true })

/-- 20_memory.md R58: carried out twice, PINMODE, PINWRITE and BRIGHT (at a percentage with a fixed value) leave the pin
state of once; the events are emitted both times. -/
def Obligations.PinOperationsAreIdempotentOnPins : Prop :=
  ∀ (i : Instr) (s t u : State),
    (∀ pin, i ≠ .pulse pin) →
    (∀ pin percent, i = .bright pin percent → (mapped percent s).isSome) →
    Instr.pinAccepted i s = true → exec i s = .next t → exec i t = .next u →
    u.pinMode = t.pinMode ∧ u.pinLevel = t.pinLevel ∧ u.pinAnalog = t.pinAnalog ∧
    ∃ es, es ≠ [] ∧ t.trace = s.trace ++ es ∧ u.trace = t.trace ++ es

/-- R134, R138: over tables with R138's properties the emitted intensity does not decrease with the percentage, and lies in
20 .. 225. -/
def Obligations.BrightIsMonotone : Prop :=
  ∀ (pin p q : Word) (s t u : State) (v w : Byte), BrightnessOk s.brightnessMap → pin ∈ s.validPins →
    p.toNat ≤ q.toNat → q.toNat ≤ 100 →
    exec (.bright pin p) s = .next t → exec (.bright pin q) s = .next u →
    t.pinAnalog.read pin = some v → u.pinAnalog.read pin = some w →
    20 ≤ v.toNat ∧ v.toNat ≤ w.toNat ∧ w.toNat ≤ 225

/-- R139, PRESUMED (log entry 5): the default table has R138's properties, and with it BRIGHT on an accepted pin emits
20 + (p * 205) / 100, truncating, for every percentage p up to 100. -/
def Obligations.DefaultMapIsTruncatingLinear : Prop :=
  BrightnessOk Const.defaultBrightnessMap ∧
  ∀ (pin p : Word) (s : State), s.brightnessMap = Const.defaultBrightnessMap → p.toNat ≤ 100 → pin ∈ s.validPins →
    ∃ t, exec (.bright pin p) s = .next t ∧
      t.trace = s.trace ++ [.analogWrite pin (BitVec.ofNat 8 (20 + (p.toNat * 205) / 100))]

/-- R35, R205: a completed WAITUS adds its duration to the lower bound on the receiver's time, a completed PULSE 102 us, and
the other three nothing. -/
def Obligations.WaitBoundOfOperations : Prop :=
  ∀ (i : Instr) (s : State), Instr.pinAccepted i s = true →
    ∃ t, exec i s = .next t ∧
      minWaitUs t.trace = minWaitUs s.trace +
        (match i with
          | .waitus duration => duration.toNat
          | .pulse _ => 102
          | .pinmode _ _ => 0
          | .pinwrite _ _ => 0
          | .bright _ _ => 0)

/-! ### The tick -/

/-- R127: with RXQ empty a tick emits Idle(IDLE_INTERVAL) and does nothing else; and on a non-empty RXQ no tick idles. -/
def Obligations.IdleExactlyWhenStreamEmpty : Prop :=
  ∀ s : State, s.fault = false →
    (s.rxq = [] → tick s = .next { s with fb := [], trace := s.trace ++ [.idle s.idleInterval] }) ∧
    (s.rxq ≠ [] → ∃ t es, tick s = .next t ∧ t.trace = s.trace ++ es ∧ ∀ n, Event.idle n ∉ es)

/-- R124: a tick that finds 1 to 4 bytes drops them: they leave RXQ, none is kept in FB, no event is emitted, and the record
Dropped(k, bs) is written. -/
def Obligations.ShortReadDropsBytes : Prop :=
  ∀ s : State, s.fault = false → 1 ≤ s.rxq.length → s.rxq.length ≤ 4 →
    tick s = .next { s with
      rxq := [], fb := [], rxpos := s.rxpos + s.rxq.length,
      records := s.records ++ [.dropped s.rxq.length s.rxq] }

/-- R135: a whole frame of an unassigned kind gives the diagnostic with that kind and nothing else: its 5 bytes are
consumed, no pin changes, FAULT stays clear. -/
def Obligations.UnknownKindOnlyReports : Prop :=
  ∀ (f : Frame) (rest : List Byte) (s : State), s.fault = false → s.rxq = ser f ++ rest →
    f.kind ≠ 1 ∧ f.kind ≠ 2 ∧ f.kind ≠ 3 ∧ f.kind ≠ 4 ∧ f.kind ≠ 5 →
    tick s = .next { s with
      rxq := rest, fb := [], rxpos := s.rxpos + 5, trace := s.trace ++ [.diag f.kind] }

/-- A step runs the decoded operation (R120, R123, R125, R126): when the next stimulus is a tick, FAULT is clear and RXQ
begins with a frame that decodes to `i`, the step is `exec i` on the state in which the stimulus is taken, the 5 bytes
have left RXQ for FB and RXPOS counts them, followed by FB losing its contents. -/
def Obligations.StepRunsDecodedOperation : Prop :=
  ∀ (i : Instr) (rest : List Byte) (s s' : State),
    takeStimulus s = (.tick, s') → s'.fault = false → decodeBytes s'.rxq = .operation i rest →
    step s = onNext clearFb (exec i
      { s' with rxq := rest, fb := s'.rxq.take 5, rxpos := s'.rxpos + 5 })

/-- R122, R126: a tick removes exactly min(5, |RXQ|) bytes, from the front of RXQ, counts them, and leaves FB empty. -/
def Obligations.TickReadsAtMostOneFrame : Prop :=
  ∀ s t : State, tick s = .next t →
    t.rxq = s.rxq.drop (min 5 s.rxq.length) ∧ t.rxpos = s.rxpos + min 5 s.rxq.length ∧ t.fb = []

/-- R38, R165, R190: a tick of a frame that names a pin outside VALID_PINS sets FAULT and emits no event; a faulted decoder
takes no tick; and no step but a reset of the decoder clears FAULT, which is R165's and R190's exception (that a reset is
a stimulus is the model's form, log entry 22). -/
def Obligations.FaultIsFinalUntilReset : Prop :=
  (∀ (i : Instr) (rest : List Byte) (s : State), s.fault = false → decodeBytes s.rxq = .operation i rest →
    Instr.pinAccepted i s = false →
    ∃ t, tick s = .next t ∧ t.fault = true ∧ t.trace = s.trace ∧ t.pinMode = s.pinMode ∧
      t.pinLevel = s.pinLevel ∧ t.pinAnalog = s.pinAnalog) ∧
  (∀ s : State, s.fault = true → tick s = .fault .decoderFaulted) ∧
  (∀ s t : State, s.fault = true → step s = .next t →
    (∀ bs o n, (takeStimulus s).1 ≠ .resetDecoder bs o n) → t.fault = true)

/-- R54: among ticks, exactly a short read changes RXPOS mod 5: a tick that finds RXQ empty or a whole frame keeps it, and
one that finds 1 to 4 bytes changes it. (A reset of the decoder, which is no tick, starts RXPOS again at 0.) -/
def Obligations.ShortReadBreaksAlignment : Prop :=
  ∀ s t : State, tick s = .next t →
    (s.wholeArrival = true → t.rxpos % 5 = s.rxpos % 5) ∧
    (s.wholeArrival = false → t.rxpos % 5 ≠ s.rxpos % 5)

/-- R124, R198 (W2): an operation whose 5 bytes arrive split in two over two ticks is lost: no event, two drops, and the
decoder aligned again. -/
def Obligations.SplitFrameIsLost : Prop :=
  ∀ (i : Instr) (k : Nat) (s : State), s.fault = false → 1 ≤ k → k ≤ 4 →
    s.rxq = (encode i).take k → s.transit = (encode i).drop k → s.stimuli = [.tick, .deliver (5 - k), .tick] →
    ∃ t, steps 3 s = .next t ∧ t.trace = s.trace ∧ t.rxq = [] ∧ t.transit = [] ∧ t.rxpos = s.rxpos + 5 ∧
      t.records = s.records ++ [.dropped k ((encode i).take k), .dropped (5 - k) ((encode i).drop k)]

/-! ### The two devices -/

/-- 20_memory.md R57, R58, R64: on a lossless channel, and while nothing is replaced, the bytes written and not yet read
(RXQ, transit, TXQ in that order) lose only what the tick reads, from the front and counted by RXPOS, and gain only
whole frames at the back. -/
def Obligations.StreamIsFifoAndLossless : Prop :=
  ∀ s t : State, step s = .next t → (takeStimulus s).1.replaces = false →
    ∃ k bs, k ≤ 5 ∧ k ≤ s.stream.length ∧ t.stream = s.stream.drop k ++ bs ∧ t.rxpos = s.rxpos + k ∧
      (bs = [] ∨ ∃ i, bs = encode i)

/-- R57: on a channel assumed lossless, bytes in transit are never replaced: such a stimulus has no step. -/
def Obligations.LosslessChannelReplacesNothing : Prop :=
  ∀ (n : Nat) (bs : List Byte) (s : State),
    (s.channelLossless = true → channelGarble n bs s = .refused .channelIsLossless) ∧
    (s.channelLossless = false → ∃ t, channelGarble n bs s = .next t ∧ t.transit = bs ++ s.transit.drop n ∧
      t.rxq = s.rxq ∧ t.txq = s.txq)

/-- R54: every step that replaces nothing keeps RXPOS plus the bytes still to be read at a whole number of frames. So an
aligned decoder has whole frames before it. -/
def Obligations.ByteCountStaysWholeFrames : Prop :=
  ∀ s t : State, step s = .next t → (takeStimulus s).1.replaces = false →
    (s.rxpos + s.stream.length) % 5 = 0 → (t.rxpos + t.stream.length) % 5 = 0

/-- 10_state.md R28, 41_decoder.md R142: no frame, request or delivery changes the configuration: only a reset of the
decoder sets its idle interval (R28: it is set at construction). No step changes the encoder's destination (R21) or the
parameters VALID_PINS, brightness_map and CHANNEL_LOSSLESS (R6, R138), which are fields of State and fixed for a run by
log entries 4, 5 and 10; that a reset of either half keeps the parameters is the model's choice (log entry 22). -/
def Obligations.FramesCannotChangeConfiguration : Prop :=
  ∀ s t : State, step s = .next t →
    t.validPins = s.validPins ∧ t.brightnessMap = s.brightnessMap ∧ t.channelLossless = s.channelLossless ∧
    t.txDest = s.txDest ∧
    (t.idleInterval = s.idleInterval ∨ ∃ bs o n, (takeStimulus s).1 = .resetDecoder bs o n ∧ t.idleInterval = n)

/-- R61: events stay in the order they were emitted: no step but a reset of the decoder removes one, and only a tick adds
any. -/
def Obligations.TraceOnlyGrows : Prop :=
  ∀ s t : State, step s = .next t → (∀ bs o n, (takeStimulus s).1 ≠ .resetDecoder bs o n) →
    s.trace <+: t.trace ∧ ((takeStimulus s).1 ≠ .tick → t.trace = s.trace)

/-- R160, R164, R108, R57: the machine has a next state except in exactly three cases: a tick of a faulted decoder, a request
the port does not take, and a replacement of bytes on a lossless channel. The third is a stimulus of the model's own: that
it has a step exactly where CHANNEL_LOSSLESS is false is log entry 10, a DESIGN CHOICE after R57. -/
def Obligations.StepStopsOnlyByName : Prop :=
  ∀ (s s' : State) (x : Stimulus), takeStimulus s = (x, s') →
    ((∃ t, step s = .next t) ↔
      ¬ (x = .tick ∧ s'.fault = true) ∧
      (∀ r, x = .request r → r.wellFormed = true) ∧
      (∀ n bs, x = .garble n bs → s'.channelLossless = false))

/-- R199, R126: in any run without a reset of the decoder, RXPOS grows by at most 5 for each tick among the stimuli taken,
whatever requests, carries and deliveries stand between them; so the bytes of m frames are read by at least m ticks. -/
def Obligations.FramesNeedAsManyTicks : Prop :=
  ∀ (n : Nat) (s t : State), steps n s = .next t → (∀ x ∈ taken n s, x.resetsDecoder = false) →
    t.rxpos ≤ s.rxpos + 5 * (taken n s).count .tick ∧
    ∀ m : Nat, s.rxpos + 5 * m ≤ t.rxpos → m ≤ (taken n s).count .tick

/-! ### Reset -/

/-- R41: every row of the reset table, for whatever the two constructors are given; and the default idle interval. -/
def Obligations.ResetTable : Prop :=
  (∀ p : Setup, let s := State.construct p
    s.txDest = .txq ∧ s.ef = none ∧ s.txq = p.txq0 ∧ s.rxq = p.rxq0 ∧ s.fb = [] ∧ s.k = 0 ∧ s.rxpos = 0 ∧
    s.idleInterval = p.idleInterval ∧ s.fault = false ∧
    (∀ pin : Word, s.pinMode.read pin = none ∧ s.pinLevel.read pin = none ∧ s.pinAnalog.read pin = none) ∧
    s.trace = [] ∧ s.diagOutput = [] ∧ s.records = []) ∧
  State.reset.idleInterval = 100 ∧ Const.brightMin = 20 ∧ Const.brightMax = 225 ∧ Const.rxGateBytes = 1

/-- R190, R191: a reset of the decoder gives it the start state of R41 (FAULT clear, RXPOS 0, every pin ⊥, trace and records
empty) with the stream and the interval it is given, and leaves the sender and the channel alone. That it is a stimulus
is the model's form (log entry 22). -/
def Obligations.DecoderResetClearsFault : Prop :=
  ∀ (bs : List Byte) (o n : Nat) (s s' : State), takeStimulus s = (.resetDecoder bs o n, s') →
    ∃ t, step s = .next t ∧ t.fault = false ∧ t.rxq = bs ∧ t.fb = [] ∧ t.rxpos = 0 ∧ t.idleInterval = n ∧
      (∀ pin : Word, t.pinMode.read pin = none ∧ t.pinLevel.read pin = none ∧ t.pinAnalog.read pin = none) ∧
      t.trace = [] ∧ t.records = [] ∧ t.txq = s'.txq ∧ t.transit = s'.transit ∧ t.ef = s'.ef

/-- The invariant holds right after construction, whatever the setup, provided the brightness table has R138's properties;
and in particular at State.reset. -/
def Obligations.InvariantAtReset : Prop :=
  (∀ p : Setup, BrightnessOk p.brightnessMap → Inv (State.construct p)) ∧ Inv State.reset

/-- Every step keeps the invariant (10_state.md R23, R26, R31 to R34, R38; 41_decoder.md R126, R138): the pin maps stay
canonical and stay exactly what the accepted events of the trace have written, EF and FB hold nothing between steps, and
the brightness table keeps its properties. -/
def Obligations.StepKeepsInvariant : Prop :=
  ∀ s t : State, Inv s → step s = .next t → Inv t

/-! ### End to end -/

/-- R137, one tick: while the stream holds whole frames of the encoder with accepted pins, a tick that finds RXQ empty or
with 5 bytes or more either idles, or carries out exactly the first frame still on the stream; the stream then holds the
others, and FAULT stays clear. -/
def Obligations.TickExecutesTheNextFrame : Prop :=
  ∀ (is : List Instr) (s s' : State), takeStimulus s = (.tick, s') → s'.fault = false → s'.holdsFrames is →
    s'.wholeArrival = true →
    ∃ t, step s = .next t ∧ t.fault = false ∧
      ((s'.rxq = [] ∧ t.holdsFrames is ∧ t.trace = s'.trace ++ [.idle s'.idleInterval] ∧ t.rxpos = s'.rxpos) ∨
        ∃ i js u, is = i :: js ∧ t.holdsFrames js ∧ t.rxpos = s'.rxpos + 5 ∧ exec i s' = .next u ∧
          t.trace = u.trace ∧ t.pinMode = u.pinMode ∧ t.pinLevel = u.pinLevel ∧ t.pinAnalog = u.pinAnalog)

/-- R137, the tick loop against the operations carried out directly: for every list of operations with accepted pins whose
frames stand at the front of RXQ, with as many ticks the next stimuli pending as there are operations (log entry 1 is the
form), these ticks end in the state the operations themselves give, but for the bytes read and the ticks taken: one frame
per tick, in order, with the same events and the same pin state. -/
def Obligations.TickLoopRefinesDirectExecution : Prop :=
  ∀ (is : List Instr) (rest : List Byte) (xs : List Stimulus) (s : State), s.fault = false → s.fb = [] →
    s.stimuli = List.replicate is.length .tick ++ xs →
    (∀ i ∈ is, Instr.pinAccepted i s = true) → s.rxq = frames is ++ rest →
    ∃ u, runDirect is s = .next u ∧ u.fault = false ∧
      steps is.length s = .next { u with rxq := rest, rxpos := s.rxpos + 5 * is.length, stimuli := xs }

/-! ### The client's notation -/

/-- R82: SEND8 expands to exactly one PULSE and SEND4 to exactly two; counting every frame, to 10 and 11 frames, plus one
each where RW is configured. -/
def Obligations.SendFrameCounts : Prop :=
  ∀ (p : AsmPins) (v : Byte) (rs : Bool),
    let isPulse : Request → Bool := fun r =>
      match r with
      | .pulseEnable _ => true
      | .setPinMode _ _ => false
      | .setPinLevel _ _ => false
      | .waitMicroseconds _ => false
      | .setBrightness _ _ => false
    let rw := if p.rw.isSome then 1 else 0
    (p.d.length = 8 → ∃ rs8, AsmLine.requests p (.send8 v rs) = some rs8 ∧
      rs8.countP isPulse = 1 ∧ rs8.length = 10 + rw) ∧
    (p.d.length = 4 ∨ p.d.length = 8 → ∃ rs4, AsmLine.requests p (.send4 v rs) = some rs4 ∧
      rs4.countP isPulse = 2 ∧ rs4.length = 11 + rw)

/-- R203: a wait of any length, split into WAITUS requests, is taken by the encoder, and carried out it adds exactly its
length to the lower bound. The split itself is the model's (Client.lean, after 95_test_vectors.md E15). -/
def Obligations.SplitWaitAddsUp : Prop :=
  ∀ (us : Nat) (s : State), ∃ (is : List Instr) (t : State),
    (splitWait us).map Request.operation = is.map some ∧ runDirect is s = .next t ∧
    minWaitUs t.trace = minWaitUs s.trace + us ∧ is.length = (us + 65534) / 65535

/-- R196: the initialization sequence of every plan makes each pin an output before it drives it. The sequence as lines is
the model's (Client.lean, after R195 and 95_test_vectors.md P3). -/
def Obligations.InitSequenceSetsOutputsFirst : Prop :=
  ∀ (p : InitPlan) (rs : List Request) (is : List Instr),
    programRequests p.pins p.lines = some rs → rs.map Request.operation = is.map some → outputsFirst [] is = true

/-! ### Time -/

/-- R36, R127, R171: an idle tick adds IDLE_INTERVAL units of IDLE_UNIT, and so their length, to the lower bound on the
receiver's time, and a tick that reads adds no idle unit. The length of the unit is OPEN (R6) and may be any; that it is
counted in whole microseconds is the model's form (log entry 29). -/
def Obligations.IdleTickAddsItsInterval : Prop :=
  ∀ s : State, s.fault = false →
    (s.rxq = [] → ∃ t, tick s = .next t ∧ idleUnits t.trace = idleUnits s.trace + s.idleInterval ∧
      minWaitUs t.trace = minWaitUs s.trace + s.idleInterval * Config.idleUnitUs) ∧
    (s.rxq ≠ [] → ∃ t, tick s = .next t ∧ idleUnits t.trace = idleUnits s.trace)

/-! ### The unused parameter at the tick -/

/-- R77: a frame of kind 3 or 4 with any p2 is carried out exactly like the canonical one with the same kind and p1: the two
ticks, from states that differ in these two bytes of RXQ alone, end in one and the same next state. -/
def Obligations.NonCanonicalFrameTicksLikeCanonical : Prop :=
  ∀ (k : Byte) (p1 p2 : Word) (rest : List Byte) (s : State), k = 3 ∨ k = 4 → s.fault = false →
    ∃ t, tick { s with rxq := ser { kind := k, p1 := p1, p2 := p2 } ++ rest } = .next t ∧
      tick { s with rxq := ser { kind := k, p1 := p1, p2 := 0 } ++ rest } = .next t

/-! ### Framing beyond R54's assumptions (how places are kept is the model's bookkeeping, log entry 30) -/

/-- R57, last sentence, with R54: loss counts as a short read. A tick moves the decoder's place in the sender's stream on by
the bytes it reads and by what was lost among them; and k bytes lost at the front of the channel while RXQ is empty move
it on by exactly as much as reading k bytes would. A loss or replacement further back moves nothing before the decoder
reads there. -/
def Obligations.LossCountsAsShortRead : Prop :=
  (∀ s t : State, tick s = .next t →
    t.readOffset = s.readOffset + (min 5 s.rxq.length : Nat) +
      netBetween s.rxpos (s.rxpos + min 5 s.rxq.length) s.slips) ∧
  (∀ (k : Nat) (s t : State), s.rxq = [] → k ≤ s.transit.length → channelGarble k [] s = .next t →
    t.rxpos = s.rxpos ∧ t.readOffset = s.readOffset + k + netBetween s.rxpos (s.rxpos + k) s.slips) ∧
  (∀ (n : Nat) (bs : List Byte) (s t : State), s.rxq ≠ [] ∨ bs ≠ [] → channelGarble n bs s = .next t →
    t.readOffset = s.readOffset)

/-- R53, R54, R57, R192: the sender's next frame begins behind the last byte of TXQ, at a whole number of frames from where
the places are counted: so after construction, whatever the setup, and kept by every step: requests, deliveries, loss and
replacement of bytes, ticks, and the resets of both devices. -/
def Obligations.SenderPlacesStayWholeFrames : Prop :=
  (∀ p : Setup, (State.construct p).sentOffset % 5 = 0) ∧
  (∀ s t : State, step s = .next t → s.sentOffset % 5 = 0 → t.sentOffset % 5 = 0)

/-- R54: under its assumptions (a lossless channel, an RXQ0 that is empty or holds whole frames from a boundary on, an
encoder's stream that starts at a boundary) there is no break after construction; a lossless channel makes none, whatever
the step, short of a reset of either device; and where there is none and the start was at a boundary, the decoder is
aligned exactly when RXPOS mod 5 = 0. -/
def Obligations.AlignedIsReadPositionUnderAssumptions : Prop :=
  (∀ p : Setup, p.startOffset % 5 = 0 → p.rxq0.length % 5 = 0 → (p.transit0.length + p.txq0.length) % 5 = 0 →
    (State.construct p).slips = [] ∧ (State.construct p).startOffset % 5 = 0) ∧
  (∀ s t : State, step s = .next t → s.channelLossless = true → (∀ bs o n, (takeStimulus s).1 ≠ .resetDecoder bs o n) →
    (∀ bs, (takeStimulus s).1 ≠ .resetEncoder bs) → t.slips = s.slips ∧ t.startOffset = s.startOffset) ∧
  (∀ s : State, s.slips = [] → s.startOffset % 5 = 0 → (s.aligned = true ↔ s.rxpos % 5 = 0))

/-- R192: at its first tick, after construction or a reset, the decoder is aligned exactly when RXQ0 starts at a boundary of
the sender's frames; where RXQ0 is empty, exactly when the first byte still to arrive is at one. -/
def Obligations.MisalignedStart : Prop :=
  (∀ p : Setup, p.rxq0 ≠ [] → ((State.construct p).aligned = true ↔ p.startOffset % 5 = 0)) ∧
  (∀ p : Setup, p.rxq0 = [] → ((State.construct p).aligned = true ↔ (p.transit0.length + p.txq0.length) % 5 = 0)) ∧
  (∀ (bs : List Byte) (o n : Nat) (s : State), bs ≠ [] →
    ((resetDecoderHalf bs o n s).aligned = true ↔ o % 5 = 0)) ∧
  (∀ (o n : Nat) (s : State), (resetDecoderHalf [] o n s).aligned = true ↔ s.transitPlace % 5 = 0)
end

