-- ==== Sys2Proof/Laws/Frame.lean ====
section
/-! SUPPORT. The small lemmas of the frame format: the widths agree, a field is its two bytes, and what `decode` and
`parse` can answer. -/

namespace Sys2Proof

/-- The notation's widths are those of the frame: FRAME_BYTES bytes, and the three fields with nothing between them. -/
theorem frame_widths : frameBits = frameBytes * byteBits ∧ frameBits = kindBits + p1Bits + p2Bits ∧ kindBits = byteBits ∧
    p1Bits = wordBits ∧ p2Bits = wordBits ∧ wordBits = 2 * byteBits ∧ pinBits ≤ p1Bits ∧ durBits ≤ p1Bits := by decide

/-- A field is put together again from the bytes it goes out as. -/
theorem joinBytes_low_high (v : Word) : joinBytes (lowByte v) (highByte v) = v := by
  unfold joinBytes lowByte highByte
  ext i hi
  simp only [BitVec.getElem_or, BitVec.getElem_setWidth, BitVec.getElem_shiftLeft, BitVec.getLsbD_extractLsb',
    Nat.zero_add]
  by_cases h : i < 8
  · simp [h, BitVec.getLsbD_eq_getElem hi]
  · have h16 : i < 16 := hi
    have h2 : i - 8 < 8 := by omega
    have h3 : 8 + (i - 8) = i := by omega
    simp [h, h2, h3, BitVec.getLsbD_eq_getElem hi]

/-- The low byte of a field is the first of its two bytes. -/
theorem lowByte_joinBytes (lo hi : Byte) : lowByte (joinBytes lo hi) = lo := by
  unfold joinBytes lowByte
  ext i hi
  have h16 : i < 16 := Nat.lt_of_lt_of_le hi (by decide)
  simp [h16, hi]

/-- The high byte of a field is the second of its two bytes. -/
theorem highByte_joinBytes (lo hi : Byte) : highByte (joinBytes lo hi) = hi := by
  unfold joinBytes highByte
  ext i hi'
  have h8 : i < 8 := hi'
  have h : 8 + i < 16 := by omega
  simp [h, BitVec.getLsbD_eq_getElem hi']

theorem ser_length (f : Frame) : (ser f).length = frameBytes := rfl

theorem encode_length (i : Instr) : (encode i).length = frameBytes := rfl

/-- Every operation's frame selects that operation. -/
theorem decode_toFrame (i : Instr) : decode i.toFrame = some i := by
  cases i <;> rfl

/-- What `parse` can answer: it answers exactly on 5 bytes. -/
theorem parse_eq_some {bs : List Byte} {f : Frame} (h : parse bs = some f) : bs.length = frameBytes ∧ ser f = bs := by
  match bs, h with
  | [b0, b1, b2, b3, b4], h =>
    have hf : f = { kind := b0, p1 := joinBytes b1 b2, p2 := joinBytes b3 b4 } := by
      simpa [parse] using h.symm
    subst hf
    exact ⟨rfl, by simp [ser, lowByte_joinBytes, highByte_joinBytes]⟩

/-- The kinds that select an operation. -/
theorem decode_eq_none_iff (f : Frame) :
    decode f = none ↔ f.kind ≠ 1 ∧ f.kind ≠ 2 ∧ f.kind ≠ 3 ∧ f.kind ≠ 4 ∧ f.kind ≠ 5 := by
  unfold decode kindSetPinMode kindSetPinLevel kindWaitMicroseconds kindPulseEnable kindSetBrightness
  grind

end Sys2Proof
end

