-- ==== Sys2Proof/Laws/Memory.lean ====
section
/-! SUPPORT. The laws of the pin maps: a write is read back, leaves every other pin alone, keeps the canonical form, and a
second write on the pin replaces the first. -/

namespace Sys2Proof.Machine

theorem Memory.lookup_insert_same {w : Nat} (m : Memory w) (a : Nat) (v : BitVec w) :
    Memory.lookup (Memory.insert m a v) a = some v := by
  induction m with
  | nil => simp [Memory.insert, Memory.lookup]
  | cons x m ih =>
    obtain ⟨b, u⟩ := x
    unfold Memory.insert
    split
    · simp [Memory.lookup]
    · split
      · simp [Memory.lookup]
      · simp [Memory.lookup, *]

theorem Memory.lookup_insert_ne {w : Nat} (m : Memory w) (a b : Nat) (v : BitVec w) (h : b ≠ a) :
    Memory.lookup (Memory.insert m a v) b = Memory.lookup m b := by
  induction m with
  | nil => simp [Memory.insert, Memory.lookup, h]
  | cons x m ih =>
    obtain ⟨c, u⟩ := x
    unfold Memory.insert
    split
    · simp [Memory.lookup, h]
    · split
      · subst_vars; simp [Memory.lookup, h]
      · simp [Memory.lookup, ih]

theorem Memory.insert_insert {w : Nat} (m : Memory w) (a : Nat) (v u : BitVec w) :
    Memory.insert (Memory.insert m a v) a u = Memory.insert m a u := by
  induction m with
  | nil => simp [Memory.insert]
  | cons x m ih =>
    obtain ⟨b, t⟩ := x
    by_cases h1 : a < b
    · simp [Memory.insert, h1]
    · by_cases h2 : a = b
      · simp [Memory.insert, h2]
      · simp [Memory.insert, h1, h2, ih]

/-- What a map lists after a write: the pair written, and pairs it listed before. -/
theorem Memory.mem_insert {w : Nat} {m : Memory w} {a : Nat} {v : BitVec w} {x : Nat × BitVec w}
    (h : x ∈ Memory.insert m a v) : x = (a, v) ∨ x ∈ m := by
  induction m with
  | nil => simpa [Memory.insert] using h
  | cons y m ih =>
    obtain ⟨b, u⟩ := y
    unfold Memory.insert at h
    split at h
    · simpa using h
    · split at h
      · rcases List.mem_cons.1 h with h | h
        · exact .inl h
        · exact .inr (List.mem_cons_of_mem _ h)
      · rcases List.mem_cons.1 h with h | h
        · exact .inr (h ▸ List.mem_cons_self)
        · exact (ih h).imp id (List.mem_cons_of_mem _)

theorem Memory.insert_wf {w : Nat} (m : Memory w) (a : Nat) (v : BitVec w) (ha : a < 2 ^ pinBits) (h : m.wf) :
    (Memory.insert m a v).wf := by
  refine ⟨?_, fun x hx => ?_⟩
  · have hp := h.1
    clear h
    induction m with
    | nil => simp [Memory.insert]
    | cons y m ih =>
      obtain ⟨b, u⟩ := y
      rw [List.pairwise_cons] at hp
      unfold Memory.insert
      split
      · rename_i hlt
        refine List.pairwise_cons.2 ⟨fun z hz => ?_, List.pairwise_cons.2 hp⟩
        rcases List.mem_cons.1 hz with rfl | hz
        · exact hlt
        · exact Nat.lt_trans hlt (hp.1 z hz)
      · split
        · rename_i _ heq
          subst heq
          exact List.pairwise_cons.2 hp
        · refine List.pairwise_cons.2 ⟨fun z hz => ?_, ih hp.2⟩
          rcases Memory.mem_insert hz with rfl | hz
          · show b < a
            omega
          · exact hp.1 z hz
  · rcases Memory.mem_insert hx with rfl | hx
    · exact ha
    · exact h.2 x hx

theorem Memory.read_write_same {w : Nat} (m : Memory w) (pin : Pin) (v : BitVec w) :
    (m.write pin v).read pin = some v := Memory.lookup_insert_same m _ v

theorem Memory.read_write_ne {w : Nat} (m : Memory w) (pin q : Pin) (v : BitVec w) (h : q ≠ pin) :
    (m.write pin v).read q = m.read q :=
  Memory.lookup_insert_ne m _ _ v (fun e => h (BitVec.eq_of_toNat_eq e))

theorem Memory.write_write {w : Nat} (m : Memory w) (pin : Pin) (v u : BitVec w) :
    (m.write pin v).write pin u = m.write pin u := Memory.insert_insert m _ v u

theorem Memory.write_wf {w : Nat} (m : Memory w) (pin : Pin) (v : BitVec w) (h : m.wf) : (m.write pin v).wf :=
  Memory.insert_wf m _ v pin.isLt h

theorem Memory.wf_nil {w : Nat} : Memory.wf ([] : Memory w) :=
  ⟨List.Pairwise.nil, fun _ h => absurd h List.not_mem_nil⟩

theorem Event.onMode_wf (e : Event) (m : Memory p2Bits) (h : m.wf) : (e.onMode m).wf := by
  cases e
  case pinMode pin mode => exact Memory.write_wf m pin mode h
  all_goals exact h

theorem Event.onLevel_wf (e : Event) (m : Memory p2Bits) (h : m.wf) : (e.onLevel m).wf := by
  cases e
  case pinWrite pin level => exact Memory.write_wf m pin level h
  all_goals exact h

theorem Event.onAnalog_wf (e : Event) (m : Memory analogBits) (h : m.wf) : (e.onAnalog m).wf := by
  cases e
  case analogWrite pin v => exact Memory.write_wf m pin v h
  all_goals exact h

/-! ### What each event does to each map -/

@[simp] theorem Event.onMode_pinMode (pin : Pin) (mode : Param2) (m : Memory p2Bits) : Event.onMode (.pinMode pin mode) m = m.write pin mode := rfl
@[simp] theorem Event.onMode_pinWrite (pin : Pin) (level : Param2) (m : Memory p2Bits) : Event.onMode (.pinWrite pin level) m = m := rfl
@[simp] theorem Event.onMode_delayUs (d : Duration) (m : Memory p2Bits) : Event.onMode (.delayUs d) m = m := rfl
@[simp] theorem Event.onMode_analogWrite (pin : Pin) (v : Analog) (m : Memory p2Bits) : Event.onMode (.analogWrite pin v) m = m := rfl
@[simp] theorem Event.onMode_diag (tag : Kind) (m : Memory p2Bits) : Event.onMode (.diag tag) m = m := rfl
@[simp] theorem Event.onMode_idle (n : Nat) (m : Memory p2Bits) : Event.onMode (.idle n) m = m := rfl
@[simp] theorem Event.onLevel_pinMode (pin : Pin) (mode : Param2) (m : Memory p2Bits) : Event.onLevel (.pinMode pin mode) m = m := rfl
@[simp] theorem Event.onLevel_pinWrite (pin : Pin) (level : Param2) (m : Memory p2Bits) : Event.onLevel (.pinWrite pin level) m = m.write pin level := rfl
@[simp] theorem Event.onLevel_delayUs (d : Duration) (m : Memory p2Bits) : Event.onLevel (.delayUs d) m = m := rfl
@[simp] theorem Event.onLevel_analogWrite (pin : Pin) (v : Analog) (m : Memory p2Bits) : Event.onLevel (.analogWrite pin v) m = m := rfl
@[simp] theorem Event.onLevel_diag (tag : Kind) (m : Memory p2Bits) : Event.onLevel (.diag tag) m = m := rfl
@[simp] theorem Event.onLevel_idle (n : Nat) (m : Memory p2Bits) : Event.onLevel (.idle n) m = m := rfl
@[simp] theorem Event.onAnalog_pinMode (pin : Pin) (mode : Param2) (m : Memory analogBits) : Event.onAnalog (.pinMode pin mode) m = m := rfl
@[simp] theorem Event.onAnalog_pinWrite (pin : Pin) (level : Param2) (m : Memory analogBits) : Event.onAnalog (.pinWrite pin level) m = m := rfl
@[simp] theorem Event.onAnalog_delayUs (d : Duration) (m : Memory analogBits) : Event.onAnalog (.delayUs d) m = m := rfl
@[simp] theorem Event.onAnalog_analogWrite (pin : Pin) (v : Analog) (m : Memory analogBits) : Event.onAnalog (.analogWrite pin v) m = m.write pin v := rfl
@[simp] theorem Event.onAnalog_diag (tag : Kind) (m : Memory analogBits) : Event.onAnalog (.diag tag) m = m := rfl
@[simp] theorem Event.onAnalog_idle (n : Nat) (m : Memory analogBits) : Event.onAnalog (.idle n) m = m := rfl

end Sys2Proof.Machine
end

