-- ==== Sys2Proof/Laws/State.lean ====
section
/-! SUPPORT. The fields of the state after each named update: what it writes, and that it leaves the rest. -/

namespace Sys2Proof.Machine

variable (s : State)

/-! ### An accepted event -/

@[simp] theorem applyEvent_txDest (e : Event) : (applyEvent e s).txDest = s.txDest := rfl
@[simp] theorem applyEvent_ef (e : Event) : (applyEvent e s).ef = s.ef := rfl
@[simp] theorem applyEvent_txq (e : Event) : (applyEvent e s).txq = s.txq := rfl
@[simp] theorem applyEvent_transit (e : Event) : (applyEvent e s).transit = s.transit := rfl
@[simp] theorem applyEvent_channelLossless (e : Event) : (applyEvent e s).channelLossless = s.channelLossless := rfl
@[simp] theorem applyEvent_slips (e : Event) : (applyEvent e s).slips = s.slips := rfl
@[simp] theorem applyEvent_startOffset (e : Event) : (applyEvent e s).startOffset = s.startOffset := rfl
@[simp] theorem applyEvent_rxq (e : Event) : (applyEvent e s).rxq = s.rxq := rfl
@[simp] theorem applyEvent_fb (e : Event) : (applyEvent e s).fb = s.fb := rfl
@[simp] theorem applyEvent_rxpos (e : Event) : (applyEvent e s).rxpos = s.rxpos := rfl
@[simp] theorem applyEvent_idleInterval (e : Event) : (applyEvent e s).idleInterval = s.idleInterval := rfl
@[simp] theorem applyEvent_validPins (e : Event) : (applyEvent e s).validPins = s.validPins := rfl
@[simp] theorem applyEvent_brightnessMap (e : Event) : (applyEvent e s).brightnessMap = s.brightnessMap := rfl
@[simp] theorem applyEvent_fault (e : Event) : (applyEvent e s).fault = s.fault := rfl
@[simp] theorem applyEvent_pinMode (e : Event) : (applyEvent e s).pinMode = e.onMode s.pinMode := rfl
@[simp] theorem applyEvent_pinLevel (e : Event) : (applyEvent e s).pinLevel = e.onLevel s.pinLevel := rfl
@[simp] theorem applyEvent_pinAnalog (e : Event) : (applyEvent e s).pinAnalog = e.onAnalog s.pinAnalog := rfl
@[simp] theorem applyEvent_trace (e : Event) : (applyEvent e s).trace = s.trace ++ [e] := rfl
@[simp] theorem applyEvent_records (e : Event) : (applyEvent e s).records = s.records := rfl
@[simp] theorem applyEvent_stimuli (e : Event) : (applyEvent e s).stimuli = s.stimuli := rfl
@[simp] theorem applyEvent_draws (e : Event) : (applyEvent e s).draws = s.draws := rfl

/-! ### The InvalidPin error event -/

@[simp] theorem raiseInvalidPin_txDest : (raiseInvalidPin s).txDest = s.txDest := rfl
@[simp] theorem raiseInvalidPin_ef : (raiseInvalidPin s).ef = s.ef := rfl
@[simp] theorem raiseInvalidPin_txq : (raiseInvalidPin s).txq = s.txq := rfl
@[simp] theorem raiseInvalidPin_transit : (raiseInvalidPin s).transit = s.transit := rfl
@[simp] theorem raiseInvalidPin_channelLossless : (raiseInvalidPin s).channelLossless = s.channelLossless := rfl
@[simp] theorem raiseInvalidPin_slips : (raiseInvalidPin s).slips = s.slips := rfl
@[simp] theorem raiseInvalidPin_startOffset : (raiseInvalidPin s).startOffset = s.startOffset := rfl
@[simp] theorem raiseInvalidPin_rxq : (raiseInvalidPin s).rxq = s.rxq := rfl
@[simp] theorem raiseInvalidPin_fb : (raiseInvalidPin s).fb = s.fb := rfl
@[simp] theorem raiseInvalidPin_rxpos : (raiseInvalidPin s).rxpos = s.rxpos := rfl
@[simp] theorem raiseInvalidPin_idleInterval : (raiseInvalidPin s).idleInterval = s.idleInterval := rfl
@[simp] theorem raiseInvalidPin_validPins : (raiseInvalidPin s).validPins = s.validPins := rfl
@[simp] theorem raiseInvalidPin_brightnessMap : (raiseInvalidPin s).brightnessMap = s.brightnessMap := rfl
@[simp] theorem raiseInvalidPin_fault : (raiseInvalidPin s).fault = true := rfl
@[simp] theorem raiseInvalidPin_pinMode : (raiseInvalidPin s).pinMode = s.pinMode := rfl
@[simp] theorem raiseInvalidPin_pinLevel : (raiseInvalidPin s).pinLevel = s.pinLevel := rfl
@[simp] theorem raiseInvalidPin_pinAnalog : (raiseInvalidPin s).pinAnalog = s.pinAnalog := rfl
@[simp] theorem raiseInvalidPin_trace : (raiseInvalidPin s).trace = s.trace := rfl
@[simp] theorem raiseInvalidPin_records : (raiseInvalidPin s).records = s.records := rfl
@[simp] theorem raiseInvalidPin_stimuli : (raiseInvalidPin s).stimuli = s.stimuli := rfl
@[simp] theorem raiseInvalidPin_draws : (raiseInvalidPin s).draws = s.draws := rfl

/-! ### A model-only record -/

@[simp] theorem record_txDest (r : Record) : (record r s).txDest = s.txDest := rfl
@[simp] theorem record_ef (r : Record) : (record r s).ef = s.ef := rfl
@[simp] theorem record_txq (r : Record) : (record r s).txq = s.txq := rfl
@[simp] theorem record_transit (r : Record) : (record r s).transit = s.transit := rfl
@[simp] theorem record_channelLossless (r : Record) : (record r s).channelLossless = s.channelLossless := rfl
@[simp] theorem record_slips (r : Record) : (record r s).slips = s.slips := rfl
@[simp] theorem record_startOffset (r : Record) : (record r s).startOffset = s.startOffset := rfl
@[simp] theorem record_rxq (r : Record) : (record r s).rxq = s.rxq := rfl
@[simp] theorem record_fb (r : Record) : (record r s).fb = s.fb := rfl
@[simp] theorem record_rxpos (r : Record) : (record r s).rxpos = s.rxpos := rfl
@[simp] theorem record_idleInterval (r : Record) : (record r s).idleInterval = s.idleInterval := rfl
@[simp] theorem record_validPins (r : Record) : (record r s).validPins = s.validPins := rfl
@[simp] theorem record_brightnessMap (r : Record) : (record r s).brightnessMap = s.brightnessMap := rfl
@[simp] theorem record_fault (r : Record) : (record r s).fault = s.fault := rfl
@[simp] theorem record_pinMode (r : Record) : (record r s).pinMode = s.pinMode := rfl
@[simp] theorem record_pinLevel (r : Record) : (record r s).pinLevel = s.pinLevel := rfl
@[simp] theorem record_pinAnalog (r : Record) : (record r s).pinAnalog = s.pinAnalog := rfl
@[simp] theorem record_trace (r : Record) : (record r s).trace = s.trace := rfl
@[simp] theorem record_records (r : Record) : (record r s).records = s.records ++ [r] := rfl
@[simp] theorem record_stimuli (r : Record) : (record r s).stimuli = s.stimuli := rfl
@[simp] theorem record_draws (r : Record) : (record r s).draws = s.draws := rfl

/-! ### The encoder's write -/

@[simp] theorem txWrite_txDest (bs : List Byte) : (txWrite bs s).txDest = s.txDest := by unfold txWrite; split; rfl
@[simp] theorem txWrite_ef (bs : List Byte) : (txWrite bs s).ef = s.ef := by unfold txWrite; split; rfl
@[simp] theorem txWrite_txq (bs : List Byte) : (txWrite bs s).txq = s.txq ++ bs := by unfold txWrite; split; rfl
@[simp] theorem txWrite_transit (bs : List Byte) : (txWrite bs s).transit = s.transit := by unfold txWrite; split; rfl
@[simp] theorem txWrite_channelLossless (bs : List Byte) : (txWrite bs s).channelLossless = s.channelLossless := by unfold txWrite; split; rfl
@[simp] theorem txWrite_slips (bs : List Byte) : (txWrite bs s).slips = s.slips := by unfold txWrite; split; rfl
@[simp] theorem txWrite_startOffset (bs : List Byte) : (txWrite bs s).startOffset = s.startOffset := by unfold txWrite; split; rfl
@[simp] theorem txWrite_rxq (bs : List Byte) : (txWrite bs s).rxq = s.rxq := by unfold txWrite; split; rfl
@[simp] theorem txWrite_fb (bs : List Byte) : (txWrite bs s).fb = s.fb := by unfold txWrite; split; rfl
@[simp] theorem txWrite_rxpos (bs : List Byte) : (txWrite bs s).rxpos = s.rxpos := by unfold txWrite; split; rfl
@[simp] theorem txWrite_idleInterval (bs : List Byte) : (txWrite bs s).idleInterval = s.idleInterval := by unfold txWrite; split; rfl
@[simp] theorem txWrite_validPins (bs : List Byte) : (txWrite bs s).validPins = s.validPins := by unfold txWrite; split; rfl
@[simp] theorem txWrite_brightnessMap (bs : List Byte) : (txWrite bs s).brightnessMap = s.brightnessMap := by unfold txWrite; split; rfl
@[simp] theorem txWrite_fault (bs : List Byte) : (txWrite bs s).fault = s.fault := by unfold txWrite; split; rfl
@[simp] theorem txWrite_pinMode (bs : List Byte) : (txWrite bs s).pinMode = s.pinMode := by unfold txWrite; split; rfl
@[simp] theorem txWrite_pinLevel (bs : List Byte) : (txWrite bs s).pinLevel = s.pinLevel := by unfold txWrite; split; rfl
@[simp] theorem txWrite_pinAnalog (bs : List Byte) : (txWrite bs s).pinAnalog = s.pinAnalog := by unfold txWrite; split; rfl
@[simp] theorem txWrite_trace (bs : List Byte) : (txWrite bs s).trace = s.trace := by unfold txWrite; split; rfl
@[simp] theorem txWrite_records (bs : List Byte) : (txWrite bs s).records = s.records := by unfold txWrite; split; rfl
@[simp] theorem txWrite_stimuli (bs : List Byte) : (txWrite bs s).stimuli = s.stimuli := by unfold txWrite; split; rfl
@[simp] theorem txWrite_draws (bs : List Byte) : (txWrite bs s).draws = s.draws := by unfold txWrite; split; rfl

/-! ### EF at the start of a request -/

@[simp] theorem setEf_txDest (F : BitVec frameBits) : (setEf F s).txDest = s.txDest := rfl
@[simp] theorem setEf_ef (F : BitVec frameBits) : (setEf F s).ef = some F := rfl
@[simp] theorem setEf_txq (F : BitVec frameBits) : (setEf F s).txq = s.txq := rfl
@[simp] theorem setEf_transit (F : BitVec frameBits) : (setEf F s).transit = s.transit := rfl
@[simp] theorem setEf_channelLossless (F : BitVec frameBits) : (setEf F s).channelLossless = s.channelLossless := rfl
@[simp] theorem setEf_slips (F : BitVec frameBits) : (setEf F s).slips = s.slips := rfl
@[simp] theorem setEf_startOffset (F : BitVec frameBits) : (setEf F s).startOffset = s.startOffset := rfl
@[simp] theorem setEf_rxq (F : BitVec frameBits) : (setEf F s).rxq = s.rxq := rfl
@[simp] theorem setEf_fb (F : BitVec frameBits) : (setEf F s).fb = s.fb := rfl
@[simp] theorem setEf_rxpos (F : BitVec frameBits) : (setEf F s).rxpos = s.rxpos := rfl
@[simp] theorem setEf_idleInterval (F : BitVec frameBits) : (setEf F s).idleInterval = s.idleInterval := rfl
@[simp] theorem setEf_validPins (F : BitVec frameBits) : (setEf F s).validPins = s.validPins := rfl
@[simp] theorem setEf_brightnessMap (F : BitVec frameBits) : (setEf F s).brightnessMap = s.brightnessMap := rfl
@[simp] theorem setEf_fault (F : BitVec frameBits) : (setEf F s).fault = s.fault := rfl
@[simp] theorem setEf_pinMode (F : BitVec frameBits) : (setEf F s).pinMode = s.pinMode := rfl
@[simp] theorem setEf_pinLevel (F : BitVec frameBits) : (setEf F s).pinLevel = s.pinLevel := rfl
@[simp] theorem setEf_pinAnalog (F : BitVec frameBits) : (setEf F s).pinAnalog = s.pinAnalog := rfl
@[simp] theorem setEf_trace (F : BitVec frameBits) : (setEf F s).trace = s.trace := rfl
@[simp] theorem setEf_records (F : BitVec frameBits) : (setEf F s).records = s.records := rfl
@[simp] theorem setEf_stimuli (F : BitVec frameBits) : (setEf F s).stimuli = s.stimuli := rfl
@[simp] theorem setEf_draws (F : BitVec frameBits) : (setEf F s).draws = s.draws := rfl

/-! ### The end of a request -/

@[simp] theorem endRequest_txDest : (endRequest s).txDest = s.txDest := rfl
@[simp] theorem endRequest_ef : (endRequest s).ef = none := rfl
@[simp] theorem endRequest_txq : (endRequest s).txq = s.txq := rfl
@[simp] theorem endRequest_transit : (endRequest s).transit = s.transit := rfl
@[simp] theorem endRequest_channelLossless : (endRequest s).channelLossless = s.channelLossless := rfl
@[simp] theorem endRequest_slips : (endRequest s).slips = s.slips := rfl
@[simp] theorem endRequest_startOffset : (endRequest s).startOffset = s.startOffset := rfl
@[simp] theorem endRequest_rxq : (endRequest s).rxq = s.rxq := rfl
@[simp] theorem endRequest_fb : (endRequest s).fb = s.fb := rfl
@[simp] theorem endRequest_rxpos : (endRequest s).rxpos = s.rxpos := rfl
@[simp] theorem endRequest_idleInterval : (endRequest s).idleInterval = s.idleInterval := rfl
@[simp] theorem endRequest_validPins : (endRequest s).validPins = s.validPins := rfl
@[simp] theorem endRequest_brightnessMap : (endRequest s).brightnessMap = s.brightnessMap := rfl
@[simp] theorem endRequest_fault : (endRequest s).fault = s.fault := rfl
@[simp] theorem endRequest_pinMode : (endRequest s).pinMode = s.pinMode := rfl
@[simp] theorem endRequest_pinLevel : (endRequest s).pinLevel = s.pinLevel := rfl
@[simp] theorem endRequest_pinAnalog : (endRequest s).pinAnalog = s.pinAnalog := rfl
@[simp] theorem endRequest_trace : (endRequest s).trace = s.trace := rfl
@[simp] theorem endRequest_records : (endRequest s).records = s.records := rfl
@[simp] theorem endRequest_stimuli : (endRequest s).stimuli = s.stimuli := rfl
@[simp] theorem endRequest_draws : (endRequest s).draws = s.draws := rfl

/-! ### The decoder's read -/

@[simp] theorem rxRead_txDest (n : Nat) : (rxRead n s).txDest = s.txDest := rfl
@[simp] theorem rxRead_ef (n : Nat) : (rxRead n s).ef = s.ef := rfl
@[simp] theorem rxRead_txq (n : Nat) : (rxRead n s).txq = s.txq := rfl
@[simp] theorem rxRead_transit (n : Nat) : (rxRead n s).transit = s.transit := rfl
@[simp] theorem rxRead_channelLossless (n : Nat) : (rxRead n s).channelLossless = s.channelLossless := rfl
@[simp] theorem rxRead_slips (n : Nat) : (rxRead n s).slips = s.slips := rfl
@[simp] theorem rxRead_startOffset (n : Nat) : (rxRead n s).startOffset = s.startOffset := rfl
@[simp] theorem rxRead_rxq (n : Nat) : (rxRead n s).rxq = s.rxq.drop n := rfl
@[simp] theorem rxRead_fb (n : Nat) : (rxRead n s).fb = s.rxq.take n := rfl
@[simp] theorem rxRead_rxpos (n : Nat) : (rxRead n s).rxpos = s.rxpos + (s.rxq.take n).length := rfl
@[simp] theorem rxRead_idleInterval (n : Nat) : (rxRead n s).idleInterval = s.idleInterval := rfl
@[simp] theorem rxRead_validPins (n : Nat) : (rxRead n s).validPins = s.validPins := rfl
@[simp] theorem rxRead_brightnessMap (n : Nat) : (rxRead n s).brightnessMap = s.brightnessMap := rfl
@[simp] theorem rxRead_fault (n : Nat) : (rxRead n s).fault = s.fault := rfl
@[simp] theorem rxRead_pinMode (n : Nat) : (rxRead n s).pinMode = s.pinMode := rfl
@[simp] theorem rxRead_pinLevel (n : Nat) : (rxRead n s).pinLevel = s.pinLevel := rfl
@[simp] theorem rxRead_pinAnalog (n : Nat) : (rxRead n s).pinAnalog = s.pinAnalog := rfl
@[simp] theorem rxRead_trace (n : Nat) : (rxRead n s).trace = s.trace := rfl
@[simp] theorem rxRead_records (n : Nat) : (rxRead n s).records = s.records := rfl
@[simp] theorem rxRead_stimuli (n : Nat) : (rxRead n s).stimuli = s.stimuli := rfl
@[simp] theorem rxRead_draws (n : Nat) : (rxRead n s).draws = s.draws := rfl

/-! ### FB between ticks -/

@[simp] theorem clearFb_txDest : (clearFb s).txDest = s.txDest := rfl
@[simp] theorem clearFb_ef : (clearFb s).ef = s.ef := rfl
@[simp] theorem clearFb_txq : (clearFb s).txq = s.txq := rfl
@[simp] theorem clearFb_transit : (clearFb s).transit = s.transit := rfl
@[simp] theorem clearFb_channelLossless : (clearFb s).channelLossless = s.channelLossless := rfl
@[simp] theorem clearFb_slips : (clearFb s).slips = s.slips := rfl
@[simp] theorem clearFb_startOffset : (clearFb s).startOffset = s.startOffset := rfl
@[simp] theorem clearFb_rxq : (clearFb s).rxq = s.rxq := rfl
@[simp] theorem clearFb_fb : (clearFb s).fb = [] := rfl
@[simp] theorem clearFb_rxpos : (clearFb s).rxpos = s.rxpos := rfl
@[simp] theorem clearFb_idleInterval : (clearFb s).idleInterval = s.idleInterval := rfl
@[simp] theorem clearFb_validPins : (clearFb s).validPins = s.validPins := rfl
@[simp] theorem clearFb_brightnessMap : (clearFb s).brightnessMap = s.brightnessMap := rfl
@[simp] theorem clearFb_fault : (clearFb s).fault = s.fault := rfl
@[simp] theorem clearFb_pinMode : (clearFb s).pinMode = s.pinMode := rfl
@[simp] theorem clearFb_pinLevel : (clearFb s).pinLevel = s.pinLevel := rfl
@[simp] theorem clearFb_pinAnalog : (clearFb s).pinAnalog = s.pinAnalog := rfl
@[simp] theorem clearFb_trace : (clearFb s).trace = s.trace := rfl
@[simp] theorem clearFb_records : (clearFb s).records = s.records := rfl
@[simp] theorem clearFb_stimuli : (clearFb s).stimuli = s.stimuli := rfl
@[simp] theorem clearFb_draws : (clearFb s).draws = s.draws := rfl

/-! ### The channel's taking -/

@[simp] theorem channelCarry_txDest (n : Nat) : (channelCarry n s).txDest = s.txDest := rfl
@[simp] theorem channelCarry_ef (n : Nat) : (channelCarry n s).ef = s.ef := rfl
@[simp] theorem channelCarry_txq (n : Nat) : (channelCarry n s).txq = s.txq.drop n := rfl
@[simp] theorem channelCarry_transit (n : Nat) : (channelCarry n s).transit = s.transit ++ s.txq.take n := rfl
@[simp] theorem channelCarry_channelLossless (n : Nat) : (channelCarry n s).channelLossless = s.channelLossless := rfl
@[simp] theorem channelCarry_slips (n : Nat) : (channelCarry n s).slips = s.slips := rfl
@[simp] theorem channelCarry_startOffset (n : Nat) : (channelCarry n s).startOffset = s.startOffset := rfl
@[simp] theorem channelCarry_rxq (n : Nat) : (channelCarry n s).rxq = s.rxq := rfl
@[simp] theorem channelCarry_fb (n : Nat) : (channelCarry n s).fb = s.fb := rfl
@[simp] theorem channelCarry_rxpos (n : Nat) : (channelCarry n s).rxpos = s.rxpos := rfl
@[simp] theorem channelCarry_idleInterval (n : Nat) : (channelCarry n s).idleInterval = s.idleInterval := rfl
@[simp] theorem channelCarry_validPins (n : Nat) : (channelCarry n s).validPins = s.validPins := rfl
@[simp] theorem channelCarry_brightnessMap (n : Nat) : (channelCarry n s).brightnessMap = s.brightnessMap := rfl
@[simp] theorem channelCarry_fault (n : Nat) : (channelCarry n s).fault = s.fault := rfl
@[simp] theorem channelCarry_pinMode (n : Nat) : (channelCarry n s).pinMode = s.pinMode := rfl
@[simp] theorem channelCarry_pinLevel (n : Nat) : (channelCarry n s).pinLevel = s.pinLevel := rfl
@[simp] theorem channelCarry_pinAnalog (n : Nat) : (channelCarry n s).pinAnalog = s.pinAnalog := rfl
@[simp] theorem channelCarry_trace (n : Nat) : (channelCarry n s).trace = s.trace := rfl
@[simp] theorem channelCarry_records (n : Nat) : (channelCarry n s).records = s.records := rfl
@[simp] theorem channelCarry_stimuli (n : Nat) : (channelCarry n s).stimuli = s.stimuli := rfl
@[simp] theorem channelCarry_draws (n : Nat) : (channelCarry n s).draws = s.draws := rfl

/-! ### The channel's delivery -/

@[simp] theorem channelDeliver_txDest (n : Nat) : (channelDeliver n s).txDest = s.txDest := rfl
@[simp] theorem channelDeliver_ef (n : Nat) : (channelDeliver n s).ef = s.ef := rfl
@[simp] theorem channelDeliver_txq (n : Nat) : (channelDeliver n s).txq = s.txq := rfl
@[simp] theorem channelDeliver_transit (n : Nat) : (channelDeliver n s).transit = s.transit.drop n := rfl
@[simp] theorem channelDeliver_channelLossless (n : Nat) : (channelDeliver n s).channelLossless = s.channelLossless := rfl
@[simp] theorem channelDeliver_slips (n : Nat) : (channelDeliver n s).slips = s.slips := rfl
@[simp] theorem channelDeliver_startOffset (n : Nat) : (channelDeliver n s).startOffset = s.startOffset := rfl
@[simp] theorem channelDeliver_rxq (n : Nat) : (channelDeliver n s).rxq = s.rxq ++ s.transit.take n := rfl
@[simp] theorem channelDeliver_fb (n : Nat) : (channelDeliver n s).fb = s.fb := rfl
@[simp] theorem channelDeliver_rxpos (n : Nat) : (channelDeliver n s).rxpos = s.rxpos := rfl
@[simp] theorem channelDeliver_idleInterval (n : Nat) : (channelDeliver n s).idleInterval = s.idleInterval := rfl
@[simp] theorem channelDeliver_validPins (n : Nat) : (channelDeliver n s).validPins = s.validPins := rfl
@[simp] theorem channelDeliver_brightnessMap (n : Nat) : (channelDeliver n s).brightnessMap = s.brightnessMap := rfl
@[simp] theorem channelDeliver_fault (n : Nat) : (channelDeliver n s).fault = s.fault := rfl
@[simp] theorem channelDeliver_pinMode (n : Nat) : (channelDeliver n s).pinMode = s.pinMode := rfl
@[simp] theorem channelDeliver_pinLevel (n : Nat) : (channelDeliver n s).pinLevel = s.pinLevel := rfl
@[simp] theorem channelDeliver_pinAnalog (n : Nat) : (channelDeliver n s).pinAnalog = s.pinAnalog := rfl
@[simp] theorem channelDeliver_trace (n : Nat) : (channelDeliver n s).trace = s.trace := rfl
@[simp] theorem channelDeliver_records (n : Nat) : (channelDeliver n s).records = s.records := rfl
@[simp] theorem channelDeliver_stimuli (n : Nat) : (channelDeliver n s).stimuli = s.stimuli := rfl
@[simp] theorem channelDeliver_draws (n : Nat) : (channelDeliver n s).draws = s.draws := rfl

/-! ### The channel's replacement of bytes -/

@[simp] theorem replaceTransit_txDest (n : Nat) (bs : List Byte) : (replaceTransit n bs s).txDest = s.txDest := rfl
@[simp] theorem replaceTransit_ef (n : Nat) (bs : List Byte) : (replaceTransit n bs s).ef = s.ef := rfl
@[simp] theorem replaceTransit_txq (n : Nat) (bs : List Byte) : (replaceTransit n bs s).txq = s.txq := rfl
@[simp] theorem replaceTransit_transit (n : Nat) (bs : List Byte) : (replaceTransit n bs s).transit = bs ++ s.transit.drop n := rfl
@[simp] theorem replaceTransit_channelLossless (n : Nat) (bs : List Byte) : (replaceTransit n bs s).channelLossless = s.channelLossless := rfl
@[simp] theorem replaceTransit_slips (n : Nat) (bs : List Byte) : (replaceTransit n bs s).slips = s.slips.map (Slip.shift s.transitStart (s.transit.take n).length bs.length) ++
    [{ pos := s.transitStart + bs.length, lost := (s.transit.take n).length, inserted := bs.length }] := rfl
@[simp] theorem replaceTransit_startOffset (n : Nat) (bs : List Byte) : (replaceTransit n bs s).startOffset = s.startOffset := rfl
@[simp] theorem replaceTransit_rxq (n : Nat) (bs : List Byte) : (replaceTransit n bs s).rxq = s.rxq := rfl
@[simp] theorem replaceTransit_fb (n : Nat) (bs : List Byte) : (replaceTransit n bs s).fb = s.fb := rfl
@[simp] theorem replaceTransit_rxpos (n : Nat) (bs : List Byte) : (replaceTransit n bs s).rxpos = s.rxpos := rfl
@[simp] theorem replaceTransit_idleInterval (n : Nat) (bs : List Byte) : (replaceTransit n bs s).idleInterval = s.idleInterval := rfl
@[simp] theorem replaceTransit_validPins (n : Nat) (bs : List Byte) : (replaceTransit n bs s).validPins = s.validPins := rfl
@[simp] theorem replaceTransit_brightnessMap (n : Nat) (bs : List Byte) : (replaceTransit n bs s).brightnessMap = s.brightnessMap := rfl
@[simp] theorem replaceTransit_fault (n : Nat) (bs : List Byte) : (replaceTransit n bs s).fault = s.fault := rfl
@[simp] theorem replaceTransit_pinMode (n : Nat) (bs : List Byte) : (replaceTransit n bs s).pinMode = s.pinMode := rfl
@[simp] theorem replaceTransit_pinLevel (n : Nat) (bs : List Byte) : (replaceTransit n bs s).pinLevel = s.pinLevel := rfl
@[simp] theorem replaceTransit_pinAnalog (n : Nat) (bs : List Byte) : (replaceTransit n bs s).pinAnalog = s.pinAnalog := rfl
@[simp] theorem replaceTransit_trace (n : Nat) (bs : List Byte) : (replaceTransit n bs s).trace = s.trace := rfl
@[simp] theorem replaceTransit_records (n : Nat) (bs : List Byte) : (replaceTransit n bs s).records = s.records := rfl
@[simp] theorem replaceTransit_stimuli (n : Nat) (bs : List Byte) : (replaceTransit n bs s).stimuli = s.stimuli := rfl
@[simp] theorem replaceTransit_draws (n : Nat) (bs : List Byte) : (replaceTransit n bs s).draws = s.draws := rfl

/-! ### Reset of the decoder -/

@[simp] theorem resetDecoderHalf_txDest (rxq0 : List Byte) (o n : Nat) : (resetDecoderHalf rxq0 o n s).txDest = s.txDest := rfl
@[simp] theorem resetDecoderHalf_ef (rxq0 : List Byte) (o n : Nat) : (resetDecoderHalf rxq0 o n s).ef = s.ef := rfl
@[simp] theorem resetDecoderHalf_txq (rxq0 : List Byte) (o n : Nat) : (resetDecoderHalf rxq0 o n s).txq = s.txq := rfl
@[simp] theorem resetDecoderHalf_transit (rxq0 : List Byte) (o n : Nat) : (resetDecoderHalf rxq0 o n s).transit = s.transit := rfl
@[simp] theorem resetDecoderHalf_channelLossless (rxq0 : List Byte) (o n : Nat) : (resetDecoderHalf rxq0 o n s).channelLossless = s.channelLossless := rfl
@[simp] theorem resetDecoderHalf_slips (rxq0 : List Byte) (o n : Nat) : (resetDecoderHalf rxq0 o n s).slips = slipsAfterReset rxq0.length o s := rfl
@[simp] theorem resetDecoderHalf_startOffset (rxq0 : List Byte) (o n : Nat) : (resetDecoderHalf rxq0 o n s).startOffset = o := rfl
@[simp] theorem resetDecoderHalf_rxq (rxq0 : List Byte) (o n : Nat) : (resetDecoderHalf rxq0 o n s).rxq = rxq0 := rfl
@[simp] theorem resetDecoderHalf_fb (rxq0 : List Byte) (o n : Nat) : (resetDecoderHalf rxq0 o n s).fb = [] := rfl
@[simp] theorem resetDecoderHalf_rxpos (rxq0 : List Byte) (o n : Nat) : (resetDecoderHalf rxq0 o n s).rxpos = 0 := rfl
@[simp] theorem resetDecoderHalf_idleInterval (rxq0 : List Byte) (o n : Nat) : (resetDecoderHalf rxq0 o n s).idleInterval = n := rfl
@[simp] theorem resetDecoderHalf_validPins (rxq0 : List Byte) (o n : Nat) : (resetDecoderHalf rxq0 o n s).validPins = s.validPins := rfl
@[simp] theorem resetDecoderHalf_brightnessMap (rxq0 : List Byte) (o n : Nat) : (resetDecoderHalf rxq0 o n s).brightnessMap = s.brightnessMap := rfl
@[simp] theorem resetDecoderHalf_fault (rxq0 : List Byte) (o n : Nat) : (resetDecoderHalf rxq0 o n s).fault = false := rfl
@[simp] theorem resetDecoderHalf_pinMode (rxq0 : List Byte) (o n : Nat) : (resetDecoderHalf rxq0 o n s).pinMode = [] := rfl
@[simp] theorem resetDecoderHalf_pinLevel (rxq0 : List Byte) (o n : Nat) : (resetDecoderHalf rxq0 o n s).pinLevel = [] := rfl
@[simp] theorem resetDecoderHalf_pinAnalog (rxq0 : List Byte) (o n : Nat) : (resetDecoderHalf rxq0 o n s).pinAnalog = [] := rfl
@[simp] theorem resetDecoderHalf_trace (rxq0 : List Byte) (o n : Nat) : (resetDecoderHalf rxq0 o n s).trace = [] := rfl
@[simp] theorem resetDecoderHalf_records (rxq0 : List Byte) (o n : Nat) : (resetDecoderHalf rxq0 o n s).records = [] := rfl
@[simp] theorem resetDecoderHalf_stimuli (rxq0 : List Byte) (o n : Nat) : (resetDecoderHalf rxq0 o n s).stimuli = s.stimuli := rfl
@[simp] theorem resetDecoderHalf_draws (rxq0 : List Byte) (o n : Nat) : (resetDecoderHalf rxq0 o n s).draws = s.draws := rfl

/-! ### Reset of the encoder -/

@[simp] theorem resetEncoderHalf_txDest (txq0 : List Byte) : (resetEncoderHalf txq0 s).txDest = .txq := rfl
@[simp] theorem resetEncoderHalf_ef (txq0 : List Byte) : (resetEncoderHalf txq0 s).ef = none := rfl
@[simp] theorem resetEncoderHalf_txq (txq0 : List Byte) : (resetEncoderHalf txq0 s).txq = txq0 := rfl
@[simp] theorem resetEncoderHalf_transit (txq0 : List Byte) : (resetEncoderHalf txq0 s).transit = s.transit := rfl
@[simp] theorem resetEncoderHalf_channelLossless (txq0 : List Byte) : (resetEncoderHalf txq0 s).channelLossless = s.channelLossless := rfl
@[simp] theorem resetEncoderHalf_slips (txq0 : List Byte) : (resetEncoderHalf txq0 s).slips = s.slips ++ slipTo s.transitEnd s.transitEndPlace (-(txq0.length : Int)) := rfl
@[simp] theorem resetEncoderHalf_startOffset (txq0 : List Byte) : (resetEncoderHalf txq0 s).startOffset = s.startOffset := rfl
@[simp] theorem resetEncoderHalf_rxq (txq0 : List Byte) : (resetEncoderHalf txq0 s).rxq = s.rxq := rfl
@[simp] theorem resetEncoderHalf_fb (txq0 : List Byte) : (resetEncoderHalf txq0 s).fb = s.fb := rfl
@[simp] theorem resetEncoderHalf_rxpos (txq0 : List Byte) : (resetEncoderHalf txq0 s).rxpos = s.rxpos := rfl
@[simp] theorem resetEncoderHalf_idleInterval (txq0 : List Byte) : (resetEncoderHalf txq0 s).idleInterval = s.idleInterval := rfl
@[simp] theorem resetEncoderHalf_validPins (txq0 : List Byte) : (resetEncoderHalf txq0 s).validPins = s.validPins := rfl
@[simp] theorem resetEncoderHalf_brightnessMap (txq0 : List Byte) : (resetEncoderHalf txq0 s).brightnessMap = s.brightnessMap := rfl
@[simp] theorem resetEncoderHalf_fault (txq0 : List Byte) : (resetEncoderHalf txq0 s).fault = s.fault := rfl
@[simp] theorem resetEncoderHalf_pinMode (txq0 : List Byte) : (resetEncoderHalf txq0 s).pinMode = s.pinMode := rfl
@[simp] theorem resetEncoderHalf_pinLevel (txq0 : List Byte) : (resetEncoderHalf txq0 s).pinLevel = s.pinLevel := rfl
@[simp] theorem resetEncoderHalf_pinAnalog (txq0 : List Byte) : (resetEncoderHalf txq0 s).pinAnalog = s.pinAnalog := rfl
@[simp] theorem resetEncoderHalf_trace (txq0 : List Byte) : (resetEncoderHalf txq0 s).trace = s.trace := rfl
@[simp] theorem resetEncoderHalf_records (txq0 : List Byte) : (resetEncoderHalf txq0 s).records = s.records := rfl
@[simp] theorem resetEncoderHalf_stimuli (txq0 : List Byte) : (resetEncoderHalf txq0 s).stimuli = s.stimuli := rfl
@[simp] theorem resetEncoderHalf_draws (txq0 : List Byte) : (resetEncoderHalf txq0 s).draws = s.draws := rfl

/-! ### Emission: whatever the event, only the trace, the pin maps and the fault mark can change -/

@[simp] theorem emit_txDest (e : Event) : (emit e s).txDest = s.txDest := by unfold emit; split <;> rfl
@[simp] theorem emit_ef (e : Event) : (emit e s).ef = s.ef := by unfold emit; split <;> rfl
@[simp] theorem emit_txq (e : Event) : (emit e s).txq = s.txq := by unfold emit; split <;> rfl
@[simp] theorem emit_transit (e : Event) : (emit e s).transit = s.transit := by unfold emit; split <;> rfl
@[simp] theorem emit_channelLossless (e : Event) : (emit e s).channelLossless = s.channelLossless := by unfold emit; split <;> rfl
@[simp] theorem emit_slips (e : Event) : (emit e s).slips = s.slips := by unfold emit; split <;> rfl
@[simp] theorem emit_startOffset (e : Event) : (emit e s).startOffset = s.startOffset := by unfold emit; split <;> rfl
@[simp] theorem emit_rxq (e : Event) : (emit e s).rxq = s.rxq := by unfold emit; split <;> rfl
@[simp] theorem emit_fb (e : Event) : (emit e s).fb = s.fb := by unfold emit; split <;> rfl
@[simp] theorem emit_rxpos (e : Event) : (emit e s).rxpos = s.rxpos := by unfold emit; split <;> rfl
@[simp] theorem emit_idleInterval (e : Event) : (emit e s).idleInterval = s.idleInterval := by unfold emit; split <;> rfl
@[simp] theorem emit_validPins (e : Event) : (emit e s).validPins = s.validPins := by unfold emit; split <;> rfl
@[simp] theorem emit_brightnessMap (e : Event) : (emit e s).brightnessMap = s.brightnessMap := by unfold emit; split <;> rfl
@[simp] theorem emit_records (e : Event) : (emit e s).records = s.records := by unfold emit; split <;> rfl
@[simp] theorem emit_stimuli (e : Event) : (emit e s).stimuli = s.stimuli := by unfold emit; split <;> rfl
@[simp] theorem emit_draws (e : Event) : (emit e s).draws = s.draws := by unfold emit; split <;> rfl

/-! ### The brightness map: only the number of the next draw can change -/

@[simp] theorem brightness_txDest (pct : Param2) : (brightness pct s).2.txDest = s.txDest := by unfold brightness; split <;> rfl
@[simp] theorem brightness_ef (pct : Param2) : (brightness pct s).2.ef = s.ef := by unfold brightness; split <;> rfl
@[simp] theorem brightness_txq (pct : Param2) : (brightness pct s).2.txq = s.txq := by unfold brightness; split <;> rfl
@[simp] theorem brightness_transit (pct : Param2) : (brightness pct s).2.transit = s.transit := by unfold brightness; split <;> rfl
@[simp] theorem brightness_channelLossless (pct : Param2) : (brightness pct s).2.channelLossless = s.channelLossless := by unfold brightness; split <;> rfl
@[simp] theorem brightness_slips (pct : Param2) : (brightness pct s).2.slips = s.slips := by unfold brightness; split <;> rfl
@[simp] theorem brightness_startOffset (pct : Param2) : (brightness pct s).2.startOffset = s.startOffset := by unfold brightness; split <;> rfl
@[simp] theorem brightness_rxq (pct : Param2) : (brightness pct s).2.rxq = s.rxq := by unfold brightness; split <;> rfl
@[simp] theorem brightness_fb (pct : Param2) : (brightness pct s).2.fb = s.fb := by unfold brightness; split <;> rfl
@[simp] theorem brightness_rxpos (pct : Param2) : (brightness pct s).2.rxpos = s.rxpos := by unfold brightness; split <;> rfl
@[simp] theorem brightness_idleInterval (pct : Param2) : (brightness pct s).2.idleInterval = s.idleInterval := by unfold brightness; split <;> rfl
@[simp] theorem brightness_validPins (pct : Param2) : (brightness pct s).2.validPins = s.validPins := by unfold brightness; split <;> rfl
@[simp] theorem brightness_brightnessMap (pct : Param2) : (brightness pct s).2.brightnessMap = s.brightnessMap := by unfold brightness; split <;> rfl
@[simp] theorem brightness_fault (pct : Param2) : (brightness pct s).2.fault = s.fault := by unfold brightness; split <;> rfl
@[simp] theorem brightness_pinMode (pct : Param2) : (brightness pct s).2.pinMode = s.pinMode := by unfold brightness; split <;> rfl
@[simp] theorem brightness_pinLevel (pct : Param2) : (brightness pct s).2.pinLevel = s.pinLevel := by unfold brightness; split <;> rfl
@[simp] theorem brightness_pinAnalog (pct : Param2) : (brightness pct s).2.pinAnalog = s.pinAnalog := by unfold brightness; split <;> rfl
@[simp] theorem brightness_trace (pct : Param2) : (brightness pct s).2.trace = s.trace := by unfold brightness; split <;> rfl
@[simp] theorem brightness_records (pct : Param2) : (brightness pct s).2.records = s.records := by unfold brightness; split <;> rfl
@[simp] theorem brightness_stimuli (pct : Param2) : (brightness pct s).2.stimuli = s.stimuli := by unfold brightness; split <;> rfl

end Sys2Proof.Machine
end

