-- ==== Sys2Proof/Laws/Ops.lean ====
section
/-! SUPPORT. One lemma per shared operation, saying once what it can do; the statements' proofs cite these. -/

namespace Sys2Proof.Machine

/-! ### Emission -/

theorem emit_of_accepted {e : Event} {s : State} (h : e.accepted s = true) : emit e s = applyEvent e s := by
  simp [emit, h]

theorem emit_of_rejected {e : Event} {s : State} (h : e.accepted s = false) : emit e s = raiseInvalidPin s := by
  simp [emit, h]

/-- Whether an event is accepted depends on VALID_PINS alone. -/
theorem Event.accepted_congr {e : Event} {s t : State} (h : s.validPins = t.validPins) : e.accepted s = e.accepted t := by
  unfold Event.accepted
  rw [h]

/-- A sequence of accepted events is applied in order. -/
theorem emitAll_of_accepted (es : List Event) (s : State) (h : ∀ e ∈ es, e.accepted s = true) :
    emitAll es s = es.foldl (fun u e => applyEvent e u) s := by
  induction es generalizing s with
  | nil => rfl
  | cons e es ih =>
    have he : e.accepted s = true := h e List.mem_cons_self
    have hs : ∀ f ∈ es, f.accepted (applyEvent e s) = true := fun f hf =>
      (Event.accepted_congr (applyEvent_validPins s e)).trans (h f (List.mem_cons_of_mem _ hf))
    simp [emitAll, he, ih _ hs]

/-- A sequence whose first event is not accepted raises InvalidPin before any event. -/
theorem emitAll_of_rejected_head {e : Event} (es : List Event) {s : State} (h : e.accepted s = false) :
    emitAll (e :: es) s = raiseInvalidPin s := by
  simp [emitAll, h]

/-- Every event of a pulse names its pin or no pin. -/
theorem pulseSequence_accepted {pin : Pin} {s : State} (h : pin ∈ s.validPins) :
    ∀ e ∈ pulseSequence pin, e.accepted s = true := by
  simp [pulseSequence, Event.accepted, Event.pin?, h]

/-! ### The brightness map -/

theorem brightness_of_mapped {pct : Param2} {s : State} {v : Analog} (h : mapped pct s = some v) :
    brightness pct s = (v, s) := by
  simp [brightness, h]

theorem brightness_of_unmapped {pct : Param2} {s : State} (h : mapped pct s = none) :
    brightness pct s = (Config.brightnessDraw s.draws, { s with draws := s.draws + 1 }) := by
  simp [brightness, h]

/-! ### The encoder -/

theorem portOperand_toNat {w : Nat} (v : BitVec w) : portOperand w v.toNat = some v := by
  simp [portOperand, operandFits, v.isLt]

theorem portOperand_eq_none {w n : Nat} (h : operandFits w n = false) : portOperand w n = none := by
  simp [portOperand, h]

theorem portOperand_of_fits {w n : Nat} (h : operandFits w n = true) : portOperand w n = some (BitVec.ofNat w n) := by
  simp [portOperand, h]

/-- What a request leaves: its bytes at the end of TXQ, and nothing in EF. -/
theorem encoderWrite_eq (i : Instr) (s : State) :
    encoderWrite i s = { s with txq := s.txq ++ bitsBytes i.toFrame.bits, ef := none } := by
  unfold encoderWrite txWrite setEf endRequest
  split
  rfl

/-! ### Places in the sender's frames -/

/-- A replacement moves a slip and keeps what it amounts to. -/
@[simp] theorem Slip.net_shift (start lost inserted : Nat) (x : Slip) :
    (Slip.shift start lost inserted x).net = x.net := rfl

@[simp] theorem netUpTo_nil (b : Nat) : netUpTo b [] = 0 := rfl

theorem netUpTo_append (b : Nat) (xs ys : List Slip) : netUpTo b (xs ++ ys) = netUpTo b xs + netUpTo b ys := by
  simp [netUpTo]

theorem netUpTo_cons (b : Nat) (x : Slip) (xs : List Slip) :
    netUpTo b (x :: xs) = (if x.pos ≤ b then x.net else 0) + netUpTo b xs := by
  unfold netUpTo
  split <;> simp [*]

theorem netBetween_cons (a b : Nat) (x : Slip) (xs : List Slip) :
    netBetween a b (x :: xs) = (if a < x.pos ∧ x.pos ≤ b then x.net else 0) + netBetween a b xs := by
  unfold netBetween
  rw [List.filter_cons]
  split <;> simp_all

/-- What stands up to a later offset stands up to the earlier one, or between the two. -/
theorem netUpTo_add (a k : Nat) (xs : List Slip) : netUpTo (a + k) xs = netUpTo a xs + netBetween a (a + k) xs := by
  induction xs with
  | nil => rfl
  | cons x xs ih =>
    rw [netUpTo_cons, netUpTo_cons, netBetween_cons, ih]
    split_ifs <;> omega

/-- A replacement ahead of an offset moves no slip past it. -/
theorem netUpTo_shift_ahead {b start lost inserted : Nat} (h : b < start + inserted) (hb : b ≤ start) (xs : List Slip) :
    netUpTo b (xs.map (Slip.shift start lost inserted)) = netUpTo b xs := by
  induction xs with
  | nil => rfl
  | cons x xs ih =>
    have hp : (Slip.shift start lost inserted x).pos ≤ b ↔ x.pos ≤ b := by
      simp only [Slip.shift]
      split_ifs <;> omega
    rw [List.map_cons, netUpTo_cons, netUpTo_cons, ih]
    simp only [hp, Slip.net_shift]

@[simp] theorem netAll_nil : netAll [] = 0 := rfl

theorem netAll_append (xs ys : List Slip) : netAll (xs ++ ys) = netAll xs + netAll ys := by
  simp [netAll]

theorem netAll_cons (x : Slip) (xs : List Slip) : netAll (x :: xs) = x.net + netAll xs := by
  simp [netAll]

/-- A replacement moves the slips and keeps what they amount to. -/
theorem netAll_shift (start lost inserted : Nat) (xs : List Slip) :
    netAll (xs.map (Slip.shift start lost inserted)) = netAll xs := by
  simp [netAll, Function.comp_def]

/-- A slip's offset does not count in what it adds. -/
theorem netAll_map_pos (f : Slip → Nat) (xs : List Slip) :
    netAll (xs.map fun x => { x with pos := f x }) = netAll xs := by
  induction xs with
  | nil => rfl
  | cons x xs ih =>
    rw [List.map_cons, netAll_cons, netAll_cons, ih]
    rfl

/-- All the slips are those up to an offset and those behind it. -/
theorem netAll_eq_add_behind (b : Nat) (xs : List Slip) :
    netAll xs = netUpTo b xs + netAll (xs.filter fun x => decide (b < x.pos)) := by
  induction xs with
  | nil => rfl
  | cons x xs ih =>
    rw [netAll_cons, netUpTo_cons, ih, List.filter_cons]
    by_cases h : x.pos ≤ b
    · rw [if_pos h, if_neg (by simpa using h)]
      omega
    · rw [if_neg h, if_pos (by simpa using h), netAll_cons]
      omega

/-- A break brings the place it is made at to the place it is made for, within a frame. -/
theorem netAll_slipTo (pos : Nat) (here place : Int) : (here + netAll (slipTo pos here place) - place) % 5 = 0 := by
  have h5 : ((frameBytes : Nat) : Int) = 5 := rfl
  unfold slipTo
  rw [h5]
  split
  · rw [netAll_nil]; omega
  · rw [netAll_cons, netAll_nil, Slip.net]; simp only []; omega

/-- A break is counted from its own offset on. -/
theorem netUpTo_slipTo (b pos : Nat) (here place : Int) :
    netUpTo b (slipTo pos here place) = if pos ≤ b then netAll (slipTo pos here place) else 0 := by
  unfold slipTo
  split
  · simp
  · rw [netUpTo_cons, netAll_cons]
    split_ifs <;> simp

theorem aligned_iff (s : State) : s.aligned = true ↔ s.readOffset % frameBytes = 0 := by
  simp [State.aligned]

theorem readOffset_of_no_slips {s : State} (h : s.slips = []) : s.readOffset = s.startOffset + s.rxpos := by
  simp [State.readOffset, h]

/-- What a garbling can do. -/
theorem channelGarble_eq_next {n : Nat} {bs : List Byte} {s t : State} (h : channelGarble n bs s = .next t) :
    s.channelLossless = false ∧ t = replaceTransit n bs s := by
  unfold channelGarble at h
  split at h
  · cases h
  · exact ⟨by simp_all, (Host.Outcome.next.inj h).symm⟩

/-! ### Stimuli and the step -/

theorem takeStimulus_nil {s : State} (h : s.stimuli = []) : takeStimulus s = (.tick, s) := by
  simp [takeStimulus, h]

theorem takeStimulus_cons {s : State} {x : Stimulus} {xs : List Stimulus} (h : s.stimuli = x :: xs) :
    takeStimulus s = (x, { s with stimuli := xs }) := by
  simp [takeStimulus, h]

/-- Taking a stimulus changes the pending list and nothing else. -/
theorem takeStimulus_frame (s : State) : ∃ xs, (takeStimulus s).2 = { s with stimuli := xs } := by
  cases h : s.stimuli with
  | nil => exact ⟨s.stimuli, by rw [takeStimulus_nil h]⟩
  | cons x xs => exact ⟨xs, by rw [takeStimulus_cons h]⟩

theorem step_eq {s s' : State} {x : Stimulus} (h : takeStimulus s = (x, s')) : step s = runStimulus x s' := by
  simp [step, h]

theorem onNext_eq_next {f : State → State} {o : Host.Outcome State Fault Refusal} {t : State}
    (h : onNext f o = .next t) : ∃ u, o = .next u ∧ f u = t := by
  cases o with
  | next u => exact ⟨u, rfl, by simpa [onNext] using h⟩
  | fault r => simp [onNext] at h
  | refused r => simp [onNext] at h

/-! ### Runs of several steps -/

@[simp] theorem steps_zero (s : State) : steps 0 s = .next s := rfl

@[simp] theorem taken_zero (s : State) : taken 0 s = [] := rfl

theorem steps_succ_of_next {s t : State} (h : step s = .next t) (n : Nat) : steps (n + 1) s = steps n t := by
  simp [steps, h]

theorem taken_succ_of_next {s t : State} (h : step s = .next t) (n : Nat) :
    taken (n + 1) s = (takeStimulus s).1 :: taken n t := by
  simp [taken, h]

/-- A run of several steps that answers a next state begins with a step that does. -/
theorem steps_succ_eq_next {n : Nat} {s t : State} (h : steps (n + 1) s = .next t) :
    ∃ u, step s = .next u ∧ steps n u = .next t := by
  cases hs : step s with
  | next u => exact ⟨u, rfl, steps_succ_of_next hs n ▸ h⟩
  | fault r => simp [steps, hs] at h
  | refused r => simp [steps, hs] at h

/-! ### The executors: each answers a next state, reached by emissions from the state after the operand is mapped -/

/-- The events an operation asks for. -/
def Instr.events (i : Instr) (s : State) : List Event :=
  match i with
  | .pinmode pin mode => [.pinMode pin mode]
  | .pinwrite pin level => [.pinWrite pin level]
  | .waitus duration => [.delayUs duration]
  | .pulse pin => pulseSequence pin
  | .bright pin percent => [.analogWrite pin (brightness percent s).1]

/-- The state in which an operation emits. -/
def Instr.source (i : Instr) (s : State) : State :=
  match i with
  | .pinmode _ _ => s
  | .pinwrite _ _ => s
  | .waitus _ => s
  | .pulse _ => s
  | .bright _ percent => (brightness percent s).2

theorem emit_eq_emitAll (e : Event) (s : State) : emit e s = emitAll [e] s := by
  simp [emit, emitAll]

/-- What `exec` can do, for every operation at once. -/
theorem exec_eq (i : Instr) (s : State) : exec i s = .next (emitAll (Instr.events i s) (Instr.source i s)) := by
  cases i <;>
    simp [exec, execPinmode, execPinwrite, execWaitus, execPulse, execBright, Instr.events, Instr.source,
      emit_eq_emitAll]

/-! ### The tick: its three paths once the mark is clear -/

theorem tick_of_fault {s : State} (h : s.fault = true) : tick s = .fault .decoderFaulted := by
  simp [tick, h]

theorem tick_of_clear {s : State} (h : s.fault = false) :
    tick s = if s.rxq.length < Const.rxGateBytes then .next (emit (.idle s.idleInterval) (clearFb s))
      else onNext clearFb (afterRead (rxRead frameBytes (clearFb s))) := by
  unfold tick
  rw [if_neg (by simp [h])]
  rfl

/-- The read of a whole frame: its bytes in FB, the rest in RXQ. -/
theorem rxRead_frame {s : State} {f : Frame} {rest : List Byte} (h : s.rxq = ser f ++ rest) :
    rxRead frameBytes s = { s with rxq := rest, fb := ser f, rxpos := s.rxpos + frameBytes } := by
  have h2 : (ser f).length = frameBytes := ser_length f
  simp only [rxRead, h]
  rw [← h2, List.drop_left, List.take_left]

/-- A stream of at least 5 bytes begins with a frame. -/
theorem exists_frame_of_length {bs : List Byte} (h : frameBytes ≤ bs.length) :
    ∃ f rest, bs = ser f ++ rest := by
  match bs, h with
  | b0 :: b1 :: b2 :: b3 :: b4 :: rest, _ =>
    exact ⟨{ kind := b0, p1 := joinBytes b1 b2, p2 := joinBytes b3 b4 }, rest, by
      simp [ser, lowByte_joinBytes, highByte_joinBytes]⟩

end Sys2Proof.Machine
end

