-- ==== Sys2Proof/Laws/PerInstr.lean ====
section
/-! SUPPORT. Statements about every operation as syntax, one lemma per constructor. -/

namespace Sys2Proof.Laws

/-- An operation's bytes are one frame, which begins with an assigned kind (30_encoding.md R70, R71). -/
def FrameShape.Statement (i : Instr) : Prop :=
  (encode i).length = frameBytes ∧ ∃ k : Fin 5, (encode i).head? = some (BitVec.ofNat 8 (k.val + 1))

theorem FrameShape.pinmode (pin : Pin) (mode : Param2) : FrameShape.Statement (.pinmode pin mode) :=
  ⟨encode_length _, 0, rfl⟩

theorem FrameShape.pinwrite (pin : Pin) (level : Param2) : FrameShape.Statement (.pinwrite pin level) :=
  ⟨encode_length _, 1, rfl⟩

theorem FrameShape.waitus (duration : Duration) : FrameShape.Statement (.waitus duration) :=
  ⟨encode_length _, 2, rfl⟩

theorem FrameShape.pulse (pin : Pin) : FrameShape.Statement (.pulse pin) :=
  ⟨encode_length _, 3, rfl⟩

theorem FrameShape.bright (pin : Pin) (percent : Param2) : FrameShape.Statement (.bright pin percent) :=
  ⟨encode_length _, 4, rfl⟩

end Sys2Proof.Laws
end

