-- ==== Sys2Proof/Tests/Slice0.lean ====
section
/-! SUPPORT. The model's own tests. Expected results are those of 95_test_vectors.md, named in each comment; then, for each
obligation with hypotheses, a concrete case that meets them together. -/

namespace Sys2Proof.Tests

open Sys2Proof.Machine

/-! ### Helpers -/

/-- The reset state with these bytes in RXQ. -/
def rx (bs : List Byte) : State := { State.reset with rxq := bs }

/-- The next state, if there is one. -/
def nextOf : Host.Outcome State Fault Refusal → Option State
  | .next t => some t
  | .fault _ => none
  | .refused _ => none

/-- The stop of an outcome, if it is a fault. -/
def faultOf : Host.Outcome State Fault Refusal → Option Fault
  | .next _ => none
  | .fault r => some r
  | .refused _ => none

/-- The stop of an outcome, if it is a refusal. -/
def refusalOf : Host.Outcome State Fault Refusal → Option Refusal
  | .next _ => none
  | .fault _ => none
  | .refused r => some r

/-- What one tick of the reset state emits from these bytes. -/
def traceOf (bs : List Byte) : Option (List Event) := (nextOf (tick (rx bs))).map State.trace

/-- A frame in RXQ and one on a channel that is not lossless, three bytes of which get lost before the next tick. -/
def lossy : State :=
  { rx [0x03, 0x96, 0, 0, 0] with
    channelLossless := false, transit := [0x04, 0x0B, 0, 0, 0], stimuli := [.garble 3 [], .tick] }

/-- What one request writes from the reset state. -/
def written (r : Request) : Option (List Byte) := (nextOf (encoderRequest r State.reset)).map State.txq

/-! ### Well-formedness: one ill-formed request for each check (R108) -/

theorem test_setPinMode_pin_too_wide : (Request.setPinMode 65536 0).wellFormed = false := by decide
theorem test_setPinMode_mode_too_wide : (Request.setPinMode 0 65536).wellFormed = false := by decide
theorem test_setPinLevel_pin_too_wide : (Request.setPinLevel 65536 0).wellFormed = false := by decide
theorem test_setPinLevel_level_too_wide : (Request.setPinLevel 0 65536).wellFormed = false := by decide
theorem test_wait_duration_too_wide : (Request.waitMicroseconds 65536).wellFormed = false := by decide
theorem test_pulse_pin_too_wide : (Request.pulseEnable 65536).wellFormed = false := by decide
theorem test_setBrightness_pin_too_wide : (Request.setBrightness 65536 0).wellFormed = false := by decide
theorem test_setBrightness_percent_too_wide : (Request.setBrightness 0 65536).wellFormed = false := by decide
theorem test_largest_operands_fit : (Request.setPinMode 65535 65535).wellFormed = true := by decide

/-! ### Decoding: words written out from the encoding, one for each constructor (R70, R71; E1, W1, E12, E16, E19) -/

theorem test_decode_pinmode : decodeBytes [0x01, 0x0A, 0x00, 0x01, 0x00] = .operation (.pinmode 10 1) [] := by decide
theorem test_decode_pinwrite : decodeBytes [0x02, 0x07, 0x00, 0x01, 0x00] = .operation (.pinwrite 7 1) [] := by decide
theorem test_decode_waitus : decodeBytes [0x03, 0x50, 0xC3, 0x00, 0x00] = .operation (.waitus 50000) [] := by decide
theorem test_decode_pulse : decodeBytes [0x04, 0x0B, 0x00, 0x00, 0x00] = .operation (.pulse 11) [] := by decide
theorem test_decode_bright : decodeBytes [0x05, 0x09, 0x00, 0x32, 0x00] = .operation (.bright 9 50) [] := by decide
/-- E5: each field low byte first. -/
theorem test_decode_byte_order :
    decodeBytes [0x02, 0x34, 0x12, 0xCD, 0xAB] = .operation (.pinwrite 0x1234 0xABCD) [] := by decide
/-- V20, V23: kinds 00 and FF are unassigned. -/
theorem test_decode_unassigned :
    decodeBytes [0, 0, 0, 0, 0] = .unrecognized 0 [] ∧ decodeBytes [0xFF, 0x12, 0x34, 0x56, 0x78] = .unrecognized 0xFF [] := by
  decide
/-- S5: four bytes are no frame. -/
theorem test_decode_short : decodeBytes [0x02, 0x07, 0x00, 0x01] = .short [0x02, 0x07, 0x00, 0x01] := by decide
/-- The frame of W1 as F = 0x0001000702. -/
theorem test_table_word : decodeTableWord 40 0x0001000702 = some (.pinwrite 7 1) := by decide
theorem test_table_word_short : decodeTableWord 8 0x03 = some (.waitus 0) := by decide

/-! ### The encoder (E1, E5, E13, E16, E21, E14) -/

theorem test_request_pinmode : written (.setPinMode 10 1) = some [0x01, 0x0A, 0x00, 0x01, 0x00] := by decide
theorem test_request_pinwrite : written (.setPinLevel 0x1234 0xABCD) = some [0x02, 0x34, 0x12, 0xCD, 0xAB] := by decide
theorem test_request_wait : written (.waitMicroseconds 65535) = some [0x03, 0xFF, 0xFF, 0x00, 0x00] := by decide
theorem test_request_pulse : written (.pulseEnable 11) = some [0x04, 0x0B, 0x00, 0x00, 0x00] := by decide
theorem test_request_bright : written (.setBrightness 9 101) = some [0x05, 0x09, 0x00, 0x65, 0x00] := by decide
theorem test_request_too_wide :
    refusalOf (encoderRequest (.waitMicroseconds 65536) State.reset) = some .operandTooWide := by decide
/-- R101: EF, and its value for W1. -/
theorem test_frame_bits : (Instr.toFrame (.pinwrite 7 1)).bits = 0x0001000702#40 := by decide

/-! ### The decoder, one tick (V3, V6, V10, V12, V13, V15, V18, V22) -/

theorem test_tick_pinmode_raw : traceOf [0x01, 0x0A, 0x00, 0x07, 0x00] = some [.pinMode 10 7] := by decide
theorem test_tick_pinwrite_raw : traceOf [0x02, 0x07, 0x00, 0x02, 0x00] = some [.pinWrite 7 2] := by decide
theorem test_tick_waitus_ignores_p2 : traceOf [0x03, 0x10, 0x00, 0xAB, 0xCD] = some [.delayUs 16] := by decide
theorem test_tick_pulse_ignores_p2 :
    traceOf [0x04, 0x0B, 0x00, 0xFF, 0xFF] =
      some [.pinWrite 11 0, .delayUs 1, .pinWrite 11 1, .delayUs 1, .pinWrite 11 0, .delayUs 100] := by decide
theorem test_tick_bright_zero : traceOf [0x05, 0x09, 0x00, 0x00, 0x00] = some [.analogWrite 9 20] := by decide
theorem test_tick_bright_fifty : traceOf [0x05, 0x09, 0x00, 0x32, 0x00] = some [.analogWrite 9 122] := by decide
theorem test_tick_bright_above_hundred :
    traceOf [0x05, 0x09, 0x00, 0x65, 0x00] = some [.analogWrite 9 (Config.brightnessDraw 0)] := by rfl
theorem test_tick_unknown : traceOf [0x07, 0x00, 0x00, 0x00, 0x00] = some [.diag 7] := by decide

/-- V11: PIN_LEVEL[11] = 0 and PIN_MODE[11] unchanged after a pulse. -/
theorem test_pulse_pins :
    (nextOf (tick (rx [0x04, 0x0B, 0x00, 0x00, 0x00]))).map (fun t => (t.pinLevel.read 11, t.pinMode.read 11)) =
      some (some 0, none) := by decide

/-- X1: pin 20: no event, FAULT set, and no later tick. -/
theorem test_invalid_pin :
    (nextOf (tick (rx [0x02, 0x14, 0x00, 0x01, 0x00]))).map (fun t => (t.fault, t.trace, faultOf (tick t))) =
      some (true, [], some .decoderFaulted) := by decide
/-- X2: a pulse on a bad pin emits none of its events. -/
theorem test_invalid_pulse :
    (nextOf (tick (rx [0x04, 0xFF, 0xFF, 0x00, 0x00]))).map (fun t => (t.fault, t.trace)) = some (true, []) := by decide
/-- X4, X5: a wait's p1 and an unknown kind's p1 are no pins. -/
theorem test_no_pin_no_fault :
    traceOf [0x03, 0x14, 0x00, 0x00, 0x00] = some [.delayUs 20] ∧
      traceOf [0x14, 0x14, 0x00, 0x00, 0x00] = some [.diag 0x14] := by decide

/-- S1. -/
theorem test_idle : traceOf [] = some [.idle 100] := by decide
/-- S4: three bytes are dropped: no event, RXPOS = 3. -/
theorem test_short_read :
    (nextOf (tick (rx [0x02, 0x07, 0x00]))).map (fun t => (t.records, t.trace, t.rxq, t.rxpos)) =
      some ([.dropped 3 [0x02, 0x07, 0x00]], [], [], 3) := by decide
/-- S6: one frame a tick, the rest stays. -/
theorem test_rest_stays :
    (nextOf (tick (rx [0x02, 0x07, 0x00, 0x01, 0x00, 0x04, 0x0B]))).map (fun t => (t.trace, t.rxq, t.rxpos)) =
      some ([.pinWrite 7 1], [0x04, 0x0B], 5) := by decide

/-! ### The step, and the frame buffer -/

/-- W1 placed as the host places it: the first step after reset runs it. -/
theorem test_step_runs_placed_word :
    (nextOf (step (State.reset.withFetchWord 40 0x0001000702))).map (fun t => (t.trace, t.pinLevel.read 7, t.fb)) =
      some ([.pinWrite 7 1], some 1, []) := by decide
/-- A pending request does not run before the placed frame. -/
theorem test_placed_word_runs_first :
    (nextOf (step (State.withFetchWord { State.reset with stimuli := [.request (.pulseEnable 1)] } 40 0x0000009603))).map
      (fun t => (t.trace, t.txq, t.stimuli)) = some ([.delayUs 150], [], [.request (.pulseEnable 1)]) := by decide
/-- R57: a delivery moves a prefix, in order. -/
theorem test_deliver :
    (nextOf (step { State.reset with transit := [1, 2, 3], rxq := [9], stimuli := [.deliver 2] })).map
      (fun t => (t.rxq, t.transit)) = some ([9, 1, 2], [3]) := by decide
/-- R57, R54: three bytes of a frame lost on the way, with a whole frame before them in RXQ: the decoder is aligned until it
has read that frame, and then is not. -/
theorem test_loss_breaks_alignment :
    (nextOf (steps 1 lossy)).map State.aligned = some true ∧ (nextOf (steps 2 lossy)).map State.aligned = some false := by
  decide
/-- A byte put in and lost again, and a corrupted byte, leave the decoder aligned behind them. -/
theorem test_undone_insertion :
    (nextOf (steps 5 { lossy with stimuli := [.garble 0 [9], .garble 1 [], .garble 1 [8], .deliver 5, .tick] })).map
      (fun t => (t.aligned, t.readOffset)) = some (true, 5) := by decide
/-- R192, R54: a decoder that starts one byte before the end of a frame is misaligned, reads a frame that the sender never
wrote, and is misaligned still; one that drops that byte alone is aligned again. -/
theorem test_misaligned_start :
    let p : Setup := { Setup.default with rxq0 := [0, 4, 11, 0, 0, 0], startOffset := 4 }
    (nextOf (tick (State.construct p))).map (fun t => (t.aligned, t.trace)) = some (false, [.diag 0]) ∧
      (nextOf (tick (State.construct { p with rxq0 := [0] }))).map State.aligned = some true := by decide
/-- R190: a reset clears FAULT. -/
theorem test_reset_clears_fault :
    (nextOf (step { State.reset with fault := true, stimuli := [.resetDecoder [7] 0 50] })).map
      (fun t => (t.fault, t.rxq, t.idleInterval)) = some (false, [7], 50) := by decide
/-- R27: P1 = MemRead(1, 2), P2 = MemRead(3, 2). -/
theorem test_memRead :
    memRead [0x02, 0x34, 0x12, 0xCD, 0xAB] 1 2 = some 0x1234 ∧ memRead [0x02, 0x34, 0x12, 0xCD, 0xAB] 3 2 = some 0xABCD ∧
      memRead [0x02] 0 2 = none := by decide
theorem test_memWrite : memWrite [0, 0, 0, 0, 0] 1 2 0x1234 = [0, 0x34, 0x12, 0, 0] := by decide

/-! ### The notation (P2, P3, E14, E15) -/

/-- The pins of P2 and P3. -/
def pins : AsmPins := { rs := 12, e := 11, d := [5, 4, 3, 2], rw := none }

theorem test_nibble :
    AsmLine.assemble pins (.nibble 3) =
      some [0x02, 0x05, 0, 1, 0, 0x02, 0x04, 0, 1, 0, 0x02, 0x03, 0, 0, 0, 0x02, 0x02, 0, 0, 0, 0x04, 0x0B, 0, 0, 0] := by
  decide
theorem test_send4 :
    AsmLine.assemble pins (.send4 0x41 true) =
      some ([0x02, 0x0C, 0, 1, 0] ++
        [0x02, 0x05, 0, 0, 0, 0x02, 0x04, 0, 0, 0, 0x02, 0x03, 0, 1, 0, 0x02, 0x02, 0, 0, 0, 0x04, 0x0B, 0, 0, 0] ++
        [0x02, 0x05, 0, 1, 0, 0x02, 0x04, 0, 0, 0, 0x02, 0x03, 0, 0, 0, 0x02, 0x02, 0, 0, 0, 0x04, 0x0B, 0, 0, 0]) := by
  decide
theorem test_asm_refuses_wide : AsmLine.assemble pins (.op (.waitMicroseconds 65536)) = none := by decide
theorem test_split_wait : splitWait 100000 = [.waitMicroseconds 65535, .waitMicroseconds 34465] := by decide

/-- The plan of P3. -/
def planP3 : InitPlan :=
  { pins := pins, width := .four, powerUpUs := 50000, firstUs := 4100, secondUs := 4100, thirdUs := 150, clearUs := 2000,
    negotiate := 3, select4 := 2, functionSet := 0x28, displayOn := 0x0C, clear := 0x01, entryMode := 0x06 }

/-- P3: 32 frames; its waits meet the minimums. -/
theorem test_plan_frames :
    planP3.meetsMinimums = true ∧
      (planP3.prefixLines.map fun l => ((AsmLine.requests pins l).getD []).length).sum = 32 := by decide

/-! ### Witnesses: for each obligation with hypotheses, values that meet them together -/

theorem witness_ParserInvertsSerializer :
    (Instr.waitus 0).toFrame.kind = 3 ∧ (Instr.pulse 65535).toFrame.kind = 4 := by decide

theorem witness_KindAloneSelectsOperation :
    0xFFFFFFFF01#40 &&& 0xFF#40 = 1#40 ∧ 0x0001000702#40 &&& 0xFF#40 = 2#40 ∧ 0x0000000003#40 &&& 0xFF#40 = 3#40 ∧
    0xFFFF000B04#40 &&& 0xFF#40 = 4#40 ∧ 0x0064000905#40 &&& 0xFF#40 = 5#40 ∧
    (0x0000000000#40 &&& 0xFF#40 ≠ 1#40 ∧ 0x0000000006#40 &&& 0xFF#40 ≠ 5#40 ∧
      0x0000000006#40 &&& 0xFF#40 ≠ 1#40 ∧ 0x0000000006#40 &&& 0xFF#40 ≠ 2#40 ∧
      0x0000000006#40 &&& 0xFF#40 ≠ 3#40 ∧ 0x0000000006#40 &&& 0xFF#40 ≠ 4#40) := by decide

theorem witness_UnusedParameterIsIgnored_unassigned :
    let f : Frame := { kind := 6, p1 := 10, p2 := 1 }
    f.kind ≠ 1 ∧ f.kind ≠ 2 ∧ f.kind ≠ 3 ∧ f.kind ≠ 4 ∧ f.kind ≠ 5 := by decide

theorem witness_TooWideRequestIsRefused :
    (Request.waitMicroseconds 65535).wellFormed = true ∧ (Request.waitMicroseconds 65536).wellFormed = false := by decide

theorem witness_EncoderWritesOnlyCanonicalFrames : ∃ t, encoderRequest (.pulseEnable 11) State.reset = .next t := ⟨_, rfl⟩

theorem witness_RequestsAppearInOrder :
    let rs := [Request.setPinMode 10 1, Request.waitMicroseconds 4100]
    rs.map Request.operation = [Instr.pinmode 10 1, Instr.waitus 4100].map some ∧
      { State.reset with stimuli := rs.map Stimulus.request }.stimuli = rs.map Stimulus.request := by decide

theorem witness_ReceiverCannotInfluenceSender :
    (rx [1, 2, 3]).txDest = State.reset.txDest ∧ (rx [1, 2, 3]).txq = State.reset.txq ∧ rx [1, 2, 3] ≠ State.reset ∧
      (nextOf (tick (rx [1, 2, 3]))).isSome = true := by decide

/-- The pins at the edge of the accepted set, for the statements on PINMODE, PINWRITE, PULSE and BRIGHT, both clauses. -/
theorem witness_pins : (19 : Word) ∈ State.reset.validPins ∧ (20 : Word) ∉ State.reset.validPins := by decide

theorem witness_BrightEmitsMappedPercent :
    BrightnessOk State.reset.brightnessMap ∧ (0 : Word).toNat ≤ 100 ∧ (100 : Word).toNat ≤ 100 ∧
      (19 : Word) ∈ State.reset.validPins ∧ (20 : Word) ∉ State.reset.validPins := by decide

theorem witness_BrightAboveHundredTakesFreeValue :
    100 < (101 : Word).toNat ∧ (19 : Word) ∈ State.reset.validPins ∧ (20 : Word) ∉ State.reset.validPins := by decide

theorem witness_OperationsFrame :
    (∃ t, exec (.pinmode 10 1) State.reset = .next t) ∧ (∃ t, exec (.pinwrite 10 1) State.reset = .next t) ∧
    (∃ t, exec (.waitus 500) State.reset = .next t) ∧ (∃ t, exec (.pulse 11) State.reset = .next t) ∧
    (∃ t, exec (.bright 9 101) State.reset = .next t) := ⟨⟨_, rfl⟩, ⟨_, rfl⟩, ⟨_, rfl⟩, ⟨_, rfl⟩, ⟨_, rfl⟩⟩

/-- Two executions in a row of an operation other than PULSE, here BRIGHT at 100. -/
theorem witness_PinOperationsAreIdempotentOnPins :
    (∀ pin, Instr.bright 9 100 ≠ .pulse pin) ∧
    (∀ pin percent, Instr.bright 9 100 = .bright pin percent → (mapped percent State.reset).isSome) ∧
    Instr.pinAccepted (.bright 9 100) State.reset = true ∧
    ∃ t u, exec (.bright 9 100) State.reset = .next t ∧ exec (.bright 9 100) t = .next u := by
  refine ⟨(fun pin h => by cases h), fun pin percent h => ?_, (by decide), _, _, rfl, rfl⟩
  cases h
  decide

theorem witness_BrightIsMonotone :
    BrightnessOk State.reset.brightnessMap ∧ (9 : Word) ∈ State.reset.validPins ∧
    (0 : Word).toNat ≤ (100 : Word).toNat ∧ (100 : Word).toNat ≤ 100 ∧
    (nextOf (exec (.bright 9 0) State.reset)).bind (fun t => t.pinAnalog.read 9) = some 20 ∧
    (nextOf (exec (.bright 9 100) State.reset)).bind (fun t => t.pinAnalog.read 9) = some 225 := by decide

theorem witness_DefaultMapIsTruncatingLinear :
    State.reset.brightnessMap = Const.defaultBrightnessMap ∧ (50 : Word).toNat ≤ 100 ∧
      (9 : Word) ∈ State.reset.validPins := by decide

theorem witness_WaitBoundOfOperations :
    Instr.pinAccepted (.pulse 19) State.reset = true ∧ Instr.pinAccepted (.waitus 0) State.reset = true := by decide

theorem witness_IdleExactlyWhenStreamEmpty :
    State.reset.fault = false ∧ State.reset.rxq = [] ∧ (rx [0]).fault = false ∧ (rx [0]).rxq ≠ [] := by decide

theorem witness_ShortReadDropsBytes :
    (rx [2]).fault = false ∧ 1 ≤ (rx [2]).rxq.length ∧ (rx [2]).rxq.length ≤ 4 ∧
    (rx [2, 7, 0, 1]).fault = false ∧ 1 ≤ (rx [2, 7, 0, 1]).rxq.length ∧ (rx [2, 7, 0, 1]).rxq.length ≤ 4 := by decide

theorem witness_UnknownKindOnlyReports :
    let f : Frame := { kind := 0, p1 := 0x1234, p2 := 0x5678 }
    (rx (ser f ++ [9])).fault = false ∧ (rx (ser f ++ [9])).rxq = ser f ++ [9] ∧
      f.kind ≠ 1 ∧ f.kind ≠ 2 ∧ f.kind ≠ 3 ∧ f.kind ≠ 4 ∧ f.kind ≠ 5 := by decide

theorem witness_StepRunsDecodedOperation :
    let s : State := { rx [0x03, 0x96, 0, 0, 0, 0x04] with stimuli := [.tick, .carry 5] }
    takeStimulus s = (.tick, { s with stimuli := [.carry 5] }) ∧ s.fault = false ∧
      decodeBytes s.rxq = .operation (.waitus 150) [0x04] := by decide

theorem witness_TickReadsAtMostOneFrame : (nextOf (tick (rx [0x03, 0x96, 0, 0, 0, 0x04]))).isSome = true := by decide

theorem witness_FaultIsFinalUntilReset :
    let s : State := { rx [0x02, 0x14, 0, 1, 0] with fault := false }
    s.fault = false ∧ decodeBytes s.rxq = .operation (.pinwrite 20 1) [] ∧
      Instr.pinAccepted (.pinwrite 20 1) s = false := by decide

theorem witness_FaultIsFinalUntilReset_kept :
    let s : State := { State.reset with fault := true, stimuli := [.request (.pulseEnable 1)] }
    s.fault = true ∧ (nextOf (step s)).isSome = true ∧ (takeStimulus s).1 = .request (.pulseEnable 1) ∧
      (∀ bs o n, (takeStimulus s).1 ≠ .resetDecoder bs o n) := by
  refine ⟨by decide, by decide, by decide, fun bs o n h => ?_⟩
  simp [takeStimulus] at h

theorem witness_ShortReadBreaksAlignment :
    (nextOf (tick (rx [1, 2, 3, 4]))).isSome = true ∧ (rx [1, 2, 3, 4]).wholeArrival = false ∧
    (nextOf (tick (rx [3, 2, 3, 4, 5]))).isSome = true ∧ (rx [3, 2, 3, 4, 5]).wholeArrival = true ∧
    (nextOf (tick (rx []))).isSome = true ∧ (rx []).wholeArrival = true := by decide

/-- W2: the frame of W1 split after 3 bytes; and the edges 1 and 4. -/
theorem witness_SplitFrameIsLost :
    ∀ k ∈ [1, 3, 4],
      let s : State := { rx ((encode (.pinwrite 7 1)).take k) with
        transit := (encode (.pinwrite 7 1)).drop k, stimuli := [.tick, .deliver (5 - k), .tick] }
      s.fault = false ∧ 1 ≤ k ∧ k ≤ 4 ∧ s.rxq = (encode (.pinwrite 7 1)).take k ∧
        s.transit = (encode (.pinwrite 7 1)).drop k ∧ s.stimuli = [.tick, .deliver (5 - k), .tick] := by decide

/-- One step of each kind that replaces nothing, from states with bytes in all three places and a whole number of frames:
for the statements on the stream, the byte count, the configuration and the trace. -/
theorem witness_steps_that_replace_nothing :
    ∀ x ∈ [Stimulus.request (.waitMicroseconds 150), .carry 3, .deliver 2, .tick],
      let s : State := { rx [0x03, 0x96, 0, 0, 0, 0x04, 0x0B] with transit := [0, 0, 0], txq := [1, 2, 3, 4, 5], stimuli := [x] }
      (nextOf (step s)).isSome = true ∧ (takeStimulus s).1 = x ∧ (takeStimulus s).1.replaces = false ∧
        (s.rxpos + s.stream.length) % 5 = 0 := by decide

theorem witness_TraceOnlyGrows :
    (nextOf (step State.reset)).isSome = true ∧ (takeStimulus State.reset).1 = .tick := by decide

theorem witness_LosslessChannelReplacesNothing :
    State.reset.channelLossless = true ∧ { State.reset with channelLossless := false }.channelLossless = false := by decide

theorem witness_FramesCannotChangeConfiguration :
    let s : State := { State.reset with stimuli := [.resetDecoder [] 0 7] }
    (nextOf (step s)).map (fun t => t.idleInterval) = some 7 := by decide

/-- Each of the three cases, and beside it a state in which the same stimulus has a step. -/
theorem witness_StepStopsOnlyByName :
    let faulted : State := { State.reset with fault := true }
    let wide : State := { State.reset with stimuli := [.request (.waitMicroseconds 65536)] }
    let fits : State := { State.reset with stimuli := [.request (.waitMicroseconds 65535)] }
    let lossless : State := { State.reset with stimuli := [.garble 1 []] }
    takeStimulus faulted = (.tick, faulted) ∧ faultOf (step faulted) = some .decoderFaulted ∧
    takeStimulus State.reset = (.tick, State.reset) ∧ (nextOf (step State.reset)).isSome = true ∧
    (takeStimulus wide).1 = .request (.waitMicroseconds 65536) ∧ refusalOf (step wide) = some .operandTooWide ∧
    (takeStimulus fits).1 = .request (.waitMicroseconds 65535) ∧ (nextOf (step fits)).isSome = true ∧
    (takeStimulus lossless).1 = .garble 1 [] ∧ refusalOf (step lossless) = some .channelIsLossless ∧
    (takeStimulus lossy).1 = .garble 3 [] ∧ (nextOf (step lossy)).isSome = true := by decide

/-- Three steps, two of them ticks that read a whole frame each: the bound is met with equality. -/
theorem witness_FramesNeedAsManyTicks :
    let s : State := { rx [0x03, 0x96, 0, 0, 0, 0x04, 0x0B, 0, 0, 0] with stimuli := [.tick, .request (.pulseEnable 1), .tick] }
    (nextOf (steps 3 s)).map State.rxpos = some 10 ∧ (∀ x ∈ taken 3 s, x.resetsDecoder = false) ∧
      (taken 3 s).count .tick = 2 ∧ s.rxpos + 5 * 2 ≤ 10 := by decide

theorem witness_DecoderResetClearsFault :
    takeStimulus { State.reset with fault := true, stimuli := [.resetDecoder [1] 3 5] } =
      (.resetDecoder [1] 3 5, { State.reset with fault := true }) := by decide

theorem witness_InvariantAtReset : BrightnessOk Setup.default.brightnessMap := by decide

/-- A state with a pin written, its frame still to be read. -/
def onePinWritten : State :=
  { rx [0x04, 0x0A, 0, 0, 0] with trace := [.pinMode 10 1], pinMode := [(10, 1)] }

theorem witness_StepKeepsInvariant : Inv onePinWritten ∧ ∃ t, step onePinWritten = .next t :=
  ⟨{ modeWf := by decide, levelWf := by decide, analogWf := by decide, modeTrace := by decide, levelTrace := by decide,
     analogTrace := by decide, accepted := by decide, efEmpty := by decide, fbEmpty := by decide,
     brightness := by decide }, _, rfl⟩

theorem witness_TickExecutesTheNextFrame :
    let is := [Instr.pinwrite 7 1, Instr.pulse 11]
    let s : State := { rx (encode (.pinwrite 7 1)) with txq := encode (.pulse 11) }
    takeStimulus s = (.tick, s) ∧ s.fault = false ∧ s.holdsFrames is ∧ s.wholeArrival = true := by
  refine ⟨by decide, by decide, ⟨by decide, by decide⟩, by decide⟩

/-- The other branch: nothing has arrived yet. -/
theorem witness_TickExecutesTheNextFrame_idle :
    let is := [Instr.pulse 11]
    let s : State := { State.reset with txq := encode (.pulse 11) }
    takeStimulus s = (.tick, s) ∧ s.fault = false ∧ s.holdsFrames is ∧ s.wholeArrival = true := by
  refine ⟨by decide, by decide, ⟨by decide, by decide⟩, by decide⟩

theorem witness_TickLoopRefinesDirectExecution :
    let is := [Instr.pinmode 10 1, Instr.pinwrite 10 1, Instr.waitus 500, Instr.bright 9 100]
    let s : State := { rx (frames is ++ [0x02]) with stimuli := [.tick, .tick, .tick, .tick, .carry 1] }
    s.fault = false ∧ s.fb = [] ∧ s.stimuli = List.replicate is.length .tick ++ [.carry 1] ∧ (∀ i ∈ is, Instr.pinAccepted i s = true) ∧
      s.rxq = frames is ++ [0x02] := by decide

theorem witness_InitSequenceSetsOutputsFirst :
    (programRequests pins planP3.lines).isSome = true ∧
      ((programRequests pins planP3.lines).getD []).all (fun r => (Request.operation r).isSome) = true := by decide

theorem witness_SendFrameCounts :
    pins.d.length = 4 ∧ 8 = { pins with d := [0, 1, 2, 3, 4, 5, 6, 7], rw := some 8 }.d.length := by decide

/-- Both clauses, the second with a single byte to read. -/
theorem witness_IdleTickAddsItsInterval :
    State.reset.fault = false ∧ State.reset.rxq = [] ∧ (rx [0]).fault = false ∧ (rx [0]).rxq ≠ [] := by decide

theorem witness_NonCanonicalFrameTicksLikeCanonical :
    ((3 : Byte) = 3 ∨ (3 : Byte) = 4) ∧ ((4 : Byte) = 3 ∨ (4 : Byte) = 4) ∧ State.reset.fault = false := by decide

/-- One state for each clause: a tick, a loss with RXQ empty, a loss behind bytes in RXQ, an insertion with RXQ empty. -/
theorem witness_LossCountsAsShortRead :
    let bare : State := { lossy with rxq := [] }
    (nextOf (tick lossy)).isSome = true ∧
    bare.rxq = [] ∧ 5 ≤ bare.transit.length ∧ (nextOf (channelGarble 5 [] bare)).isSome = true ∧
    lossy.rxq ≠ [] ∧ (nextOf (channelGarble 3 [] lossy)).isSome = true ∧
    ([9] : List Byte) ≠ [] ∧ (nextOf (channelGarble 0 [9] bare)).isSome = true := by decide

/-- A loss, and a reset of each device with part of a frame on the way. -/
theorem witness_SenderPlacesStayWholeFrames :
    lossy.sentOffset % 5 = 0 ∧
    ∀ x ∈ [Stimulus.garble 3 [], .resetDecoder [1, 2] 3 100, .resetEncoder [7], .request (.pulseEnable 1), .tick],
      (nextOf (step { lossy with stimuli := [x] })).isSome = true := by decide

theorem witness_AlignedIsReadPositionUnderAssumptions :
    let p : Setup := { Setup.default with rxq0 := encode (.pulse 1), transit0 := [4, 1], txq0 := [0, 0, 0], startOffset := 5 }
    p.startOffset % 5 = 0 ∧ p.rxq0.length % 5 = 0 ∧ (p.transit0.length + p.txq0.length) % 5 = 0 ∧
      (State.construct p).slips = [] ∧ (State.construct p).startOffset % 5 = 0 ∧
      State.reset.channelLossless = true ∧ (nextOf (step State.reset)).isSome = true ∧
      (takeStimulus State.reset).1 = .tick := by decide

/-- Both sides of each clause. -/
theorem witness_MisalignedStart :
    let p : Setup := { Setup.default with rxq0 := [0, 4, 1, 0, 0, 0], startOffset := 4 }
    p.rxq0 ≠ [] ∧ (State.construct p).aligned = false ∧ (State.construct { p with startOffset := 0 }).aligned = true ∧
    (State.construct { p with rxq0 := [], transit0 := [0, 0] }).aligned = false ∧
    (State.construct { p with rxq0 := [], transit0 := [0, 0], txq0 := [4, 1, 0] }).aligned = true ∧
    (resetDecoderHalf [0] 4 100 lossy).aligned = false ∧ (resetDecoderHalf [0] 0 100 lossy).aligned = true ∧
    (resetDecoderHalf [] 4 100 lossy).aligned = true ∧ (resetDecoderHalf [] 0 100 { lossy with rxq := [0, 0] }).aligned = false := by
  decide

end Sys2Proof.Tests
end

/-! ## Rules of the shared operations: emission, an operation's events, the tick's paths, a stimulus's effect -/

namespace Sys2Proof.Machine

/-! ### A sequence of emissions -/

/-- What an accepted event and an InvalidPin keep, a sequence of emissions keeps. -/
theorem emitAll_preserves {P : State → Prop}
    (happly : ∀ e s, e.accepted s = true → P s → P (applyEvent e s))
    (hraise : ∀ s, P s → P (raiseInvalidPin s)) (es : List Event) {s : State} (h : P s) : P (emitAll es s) := by
  induction es generalizing s with
  | nil => exact h
  | cons e es ih =>
    unfold emitAll
    split
    next he => exact ih (happly e s he h)
    next => exact hraise s h

/-- What neither an accepted event nor an InvalidPin changes, a sequence of emissions does not change. -/
theorem emitAll_unchanged {α : Type} (field : State → α)
    (happly : ∀ e s, field (applyEvent e s) = field s) (hraise : ∀ s, field (raiseInvalidPin s) = field s)
    (es : List Event) (s : State) : field (emitAll es s) = field s :=
  emitAll_preserves (P := fun t => field t = field s) (fun e t _ h => (happly e t).trans h)
    (fun t h => (hraise t).trans h) es rfl

@[simp] theorem emitAll_channelLossless (es : List Event) (s : State) :
    (emitAll es s).channelLossless = s.channelLossless :=
  emitAll_unchanged State.channelLossless (fun _ _ => rfl) (fun _ => rfl) es s
@[simp] theorem emitAll_rxpos (es : List Event) (s : State) : (emitAll es s).rxpos = s.rxpos :=
  emitAll_unchanged State.rxpos (fun _ _ => rfl) (fun _ => rfl) es s
@[simp] theorem emitAll_idleInterval (es : List Event) (s : State) : (emitAll es s).idleInterval = s.idleInterval :=
  emitAll_unchanged State.idleInterval (fun _ _ => rfl) (fun _ => rfl) es s
@[simp] theorem emitAll_validPins (es : List Event) (s : State) : (emitAll es s).validPins = s.validPins :=
  emitAll_unchanged State.validPins (fun _ _ => rfl) (fun _ => rfl) es s
@[simp] theorem emitAll_brightnessMap (es : List Event) (s : State) : (emitAll es s).brightnessMap = s.brightnessMap :=
  emitAll_unchanged State.brightnessMap (fun _ _ => rfl) (fun _ => rfl) es s

/-- Emission does not look at FB, so FB can as well be cleared before it. -/
theorem clearFb_emitAll (es : List Event) (s : State) : clearFb (emitAll es s) = emitAll es (clearFb s) := by
  induction es generalizing s with
  | nil => rfl
  | cons e es ih =>
    have ha : e.accepted (clearFb s) = e.accepted s := Event.accepted_congr rfl
    unfold emitAll
    rw [ha]
    split
    · exact ih (applyEvent e s)
    · rfl

/-- A sequence of emissions adds the events before the first one that is not accepted. -/
theorem emitAll_trace_prefix (es : List Event) (s : State) :
    ∃ fs, fs <+: es ∧ (emitAll es s).trace = s.trace ++ fs := by
  induction es generalizing s with
  | nil => exact ⟨[], List.nil_prefix, by simp [emitAll]⟩
  | cons e es ih =>
    unfold emitAll
    split
    · obtain ⟨fs, hfs, ht⟩ := ih (applyEvent e s)
      exact ⟨e :: fs, List.cons_prefix_cons.2 ⟨rfl, hfs⟩, by simp [ht]⟩
    · exact ⟨[], List.nil_prefix, by simp⟩

/-- A sequence of accepted events is added to the trace as it is. -/
theorem emitAll_trace_of_accepted {es : List Event} {s : State} (h : ∀ e ∈ es, e.accepted s = true) :
    (emitAll es s).trace = s.trace ++ es := by
  rw [emitAll_of_accepted es s h]
  clear h
  induction es generalizing s with
  | nil => simp
  | cons e es ih => simp [ih]

theorem accepted_of_no_pin {e : Event} (h : e.pin? = none) (s : State) : e.accepted s = true := by
  simp [Event.accepted, h]

theorem accepted_iff_of_pin {e : Event} {pin : Pin} (h : e.pin? = some pin) (s : State) :
    e.accepted s = true ↔ pin ∈ s.validPins := by
  simp [Event.accepted, h]

theorem emit_of_valid_pin {e : Event} {pin : Pin} {s : State} (he : e.pin? = some pin) (h : pin ∈ s.validPins) :
    emit e s = applyEvent e s :=
  emit_of_accepted ((accepted_iff_of_pin he s).2 h)

theorem emit_of_invalid_pin {e : Event} {pin : Pin} {s : State} (he : e.pin? = some pin) (h : pin ∉ s.validPins) :
    emit e s = raiseInvalidPin s :=
  emit_of_rejected (Bool.eq_false_iff.2 fun ha => h ((accepted_iff_of_pin he s).1 ha))

/-! ### An operation's events and the state it emits them in -/

/-- Mapping the operand can only take the number of the next draw. -/
theorem source_eq (i : Instr) (s : State) : ∃ n, Instr.source i s = { s with draws := n } := by
  cases i with
  | bright pin percent =>
    cases hm : mapped percent s with
    | some v => exact ⟨s.draws, by simp [Instr.source, brightness_of_mapped hm]⟩
    | none => exact ⟨s.draws + 1, by simp [Instr.source, brightness_of_unmapped hm]⟩
  | pinmode pin mode => exact ⟨s.draws, rfl⟩
  | pinwrite pin level => exact ⟨s.draws, rfl⟩
  | waitus duration => exact ⟨s.draws, rfl⟩
  | pulse pin => exact ⟨s.draws, rfl⟩

/-- A field that does not depend on the number of the next draw is the same in the state an operation emits in. -/
theorem source_unchanged {α : Type} (field : State → α)
    (hdraws : ∀ (s : State) n, field { s with draws := n } = field s) (i : Instr) (s : State) : field (Instr.source i s) = field s := by
  obtain ⟨n, hn⟩ := source_eq i s
  rw [hn, hdraws]

@[simp] theorem source_ef (i : Instr) (s : State) : (Instr.source i s).ef = s.ef :=
  source_unchanged State.ef (fun _ _ => rfl) i s
@[simp] theorem source_channelLossless (i : Instr) (s : State) :
    (Instr.source i s).channelLossless = s.channelLossless :=
  source_unchanged State.channelLossless (fun _ _ => rfl) i s
@[simp] theorem source_rxpos (i : Instr) (s : State) : (Instr.source i s).rxpos = s.rxpos :=
  source_unchanged State.rxpos (fun _ _ => rfl) i s
@[simp] theorem source_idleInterval (i : Instr) (s : State) : (Instr.source i s).idleInterval = s.idleInterval :=
  source_unchanged State.idleInterval (fun _ _ => rfl) i s
@[simp] theorem source_validPins (i : Instr) (s : State) : (Instr.source i s).validPins = s.validPins :=
  source_unchanged State.validPins (fun _ _ => rfl) i s
@[simp] theorem source_brightnessMap (i : Instr) (s : State) : (Instr.source i s).brightnessMap = s.brightnessMap :=
  source_unchanged State.brightnessMap (fun _ _ => rfl) i s
@[simp] theorem source_pinMode (i : Instr) (s : State) : (Instr.source i s).pinMode = s.pinMode :=
  source_unchanged State.pinMode (fun _ _ => rfl) i s
@[simp] theorem source_pinLevel (i : Instr) (s : State) : (Instr.source i s).pinLevel = s.pinLevel :=
  source_unchanged State.pinLevel (fun _ _ => rfl) i s
@[simp] theorem source_pinAnalog (i : Instr) (s : State) : (Instr.source i s).pinAnalog = s.pinAnalog :=
  source_unchanged State.pinAnalog (fun _ _ => rfl) i s
@[simp] theorem source_trace (i : Instr) (s : State) : (Instr.source i s).trace = s.trace :=
  source_unchanged State.trace (fun _ _ => rfl) i s

theorem pinAccepted_congr {i : Instr} {s t : State} (h : s.validPins = t.validPins) :
    Instr.pinAccepted i s = Instr.pinAccepted i t := by
  unfold Instr.pinAccepted
  rw [h]

/-- An event that names the operation's pin is accepted exactly where the operation's pin is. -/
theorem accepted_eq_pinAccepted {e : Event} {i : Instr} (h : e.pin? = Instr.pin? i) (s : State) :
    e.accepted s = Instr.pinAccepted i s := by
  cases hpin : Instr.pin? i with
  | some pin => simp only [Event.accepted, Instr.pinAccepted, h, hpin]
  | none => simp only [Event.accepted, Instr.pinAccepted, h, hpin]

/-- The first event of an operation names the operation's pin. -/
theorem events_eq_cons (i : Instr) (s : State) :
    ∃ e es, Instr.events i s = e :: es ∧ e.pin? = Instr.pin? i := by
  cases i <;> exact ⟨_, _, rfl, rfl⟩

/-- Every event of an operation on an accepted pin is accepted. -/
theorem events_accepted {i : Instr} {s : State} (h : Instr.pinAccepted i s = true) :
    ∀ e ∈ Instr.events i s, e.accepted (Instr.source i s) = true := by
  have hv : ∀ e : Event, e.accepted (Instr.source i s) = e.accepted s := fun e =>
    Event.accepted_congr (source_validPins i s)
  intro e he
  rw [hv]
  cases i with
  | pulse pin => exact pulseSequence_accepted (by simpa [Instr.pinAccepted, Instr.pin?] using h) e he
  | pinmode pin mode => rw [List.mem_singleton.1 he]; exact h
  | pinwrite pin level => rw [List.mem_singleton.1 he]; exact h
  | waitus duration => rw [List.mem_singleton.1 he]; exact h
  | bright pin percent => rw [List.mem_singleton.1 he]; exact h

/-- An operation on a pin that is not accepted raises InvalidPin before any event. -/
theorem emitAll_events_of_rejected {i : Instr} {s : State} (h : Instr.pinAccepted i s = false) :
    emitAll (Instr.events i s) (Instr.source i s) = raiseInvalidPin (Instr.source i s) := by
  obtain ⟨e, es, hes, hpin⟩ := events_eq_cons i s
  have he : e.accepted (Instr.source i s) = false :=
    (Event.accepted_congr (source_validPins i s)).trans ((accepted_eq_pinAccepted hpin s).trans h)
  rw [hes, emitAll_of_rejected_head es he]

/-- A completed operation adds its events to the trace. -/
theorem exec_trace_of_accepted {i : Instr} {s : State} (h : Instr.pinAccepted i s = true) :
    ∃ t, exec i s = .next t ∧ t.trace = s.trace ++ Instr.events i s :=
  ⟨_, exec_eq i s, by rw [emitAll_trace_of_accepted (events_accepted h), source_trace]⟩

/-! ### The frame at the front of RXQ -/

theorem parse_ser (f : Frame) : parse (ser f) = some f := by
  simp [parse, ser, joinBytes_low_high]

/-- Fewer bytes than a frame are not parsed. -/
theorem parse_eq_none_of_length_lt {bs : List Byte} (h : bs.length < frameBytes) : parse bs = none := by
  cases hp : parse bs with
  | none => rfl
  | some f => exact absurd (parse_eq_some hp).1 h.ne

/-- Where the bytes decode to an operation, they begin with a frame that selects it. -/
theorem decodeBytes_eq_operation {bs rest : List Byte} {i : Instr} (h : decodeBytes bs = .operation i rest) :
    ∃ f, bs = ser f ++ rest ∧ decode f = some i := by
  match bs, h with
  | b0 :: b1 :: b2 :: b3 :: b4 :: rest', h =>
    refine ⟨{ kind := b0, p1 := joinBytes b1 b2, p2 := joinBytes b3 b4 }, ?_⟩
    rw [decodeBytes] at h
    split at h
    next j hj =>
      obtain ⟨rfl, rfl⟩ := Decoded.operation.inj h
      exact ⟨by simp [ser, lowByte_joinBytes, highByte_joinBytes], hj⟩
    next => cases h

/-! ### The tick -/

theorem tick_of_rxq_nil {s : State} (hf : s.fault = false) (h : s.rxq = []) :
    tick s = .next (applyEvent (.idle s.idleInterval) (clearFb s)) := by
  rw [tick_of_clear hf, if_pos (by simp [h, Const.rxGateBytes]), emit_of_accepted (accepted_of_no_pin rfl _)]

theorem tick_of_rxq_ne_nil {s : State} (hf : s.fault = false) (h : s.rxq ≠ []) :
    tick s = onNext clearFb (afterRead (rxRead frameBytes (clearFb s))) := by
  have hlen : 0 < s.rxq.length := List.length_pos_iff.2 h
  rw [tick_of_clear hf, if_neg (by unfold Const.rxGateBytes; omega)]

theorem tick_of_short {s : State} (hf : s.fault = false) (hne : s.rxq ≠ []) (hlt : s.rxq.length < frameBytes) :
    tick s = .next (clearFb (shortRead (rxRead frameBytes (clearFb s)))) := by
  have hview : (rxRead frameBytes (clearFb s)).frameView = none :=
    parse_eq_none_of_length_lt (lt_of_le_of_lt (List.length_take_le' _ _) hlt)
  rw [tick_of_rxq_ne_nil hf hne, afterRead, hview]
  rfl

theorem tick_of_frame {s : State} {f : Frame} {rest : List Byte} (hf : s.fault = false) (h : s.rxq = ser f ++ rest) :
    tick s = onNext clearFb (dispatchFrame f (rxRead frameBytes (clearFb s))) := by
  have hview : (rxRead frameBytes (clearFb s)).frameView = some f := by
    rw [rxRead_frame (s := clearFb s) h]
    exact parse_ser f
  rw [tick_of_rxq_ne_nil hf (by simp [h, ser]), afterRead, hview]

theorem tick_of_operation {s : State} {f : Frame} {rest : List Byte} {i : Instr} (hf : s.fault = false)
    (h : s.rxq = ser f ++ rest) (hd : decode f = some i) :
    tick s = .next (clearFb (emitAll (Instr.events i (rxRead frameBytes (clearFb s)))
      (Instr.source i (rxRead frameBytes (clearFb s))))) := by
  rw [tick_of_frame hf h, dispatchFrame, hd]
  exact congrArg (onNext clearFb) (exec_eq i _)

theorem tick_of_unassigned {s : State} {f : Frame} {rest : List Byte} (hf : s.fault = false)
    (h : s.rxq = ser f ++ rest) (hd : decode f = none) :
    tick s = .next (clearFb (applyEvent (.diag f.kind) (rxRead frameBytes (clearFb s)))) := by
  rw [tick_of_frame hf h, dispatchFrame, hd, unknownKind, emit_of_accepted (accepted_of_no_pin rfl _)]
  rfl

/-- The four paths of a tick of a decoder that is not faulted, by what RXQ holds. -/
inductive TickPath (s : State) : State → Prop
  | idle (h : s.rxq = []) : TickPath s (applyEvent (.idle s.idleInterval) (clearFb s))
  | short (hne : s.rxq ≠ []) (hlt : s.rxq.length < frameBytes) :
      TickPath s (clearFb (shortRead (rxRead frameBytes (clearFb s))))
  | operation {f : Frame} {rest : List Byte} {i : Instr} (hrxq : s.rxq = ser f ++ rest) (hd : decode f = some i) :
      TickPath s (clearFb (emitAll (Instr.events i (rxRead frameBytes (clearFb s)))
        (Instr.source i (rxRead frameBytes (clearFb s)))))
  | unassigned {f : Frame} {rest : List Byte} (hrxq : s.rxq = ser f ++ rest) (hd : decode f = none) :
      TickPath s (clearFb (applyEvent (.diag f.kind) (rxRead frameBytes (clearFb s))))

/-- A decoder that is not faulted takes its tick on one of the four paths. -/
theorem tick_of_fault_clear {s : State} (hf : s.fault = false) : ∃ t, tick s = .next t ∧ TickPath s t := by
  by_cases hnil : s.rxq = []
  · exact ⟨_, tick_of_rxq_nil hf hnil, .idle hnil⟩
  by_cases hlt : s.rxq.length < frameBytes
  · exact ⟨_, tick_of_short hf hnil hlt, .short hnil hlt⟩
  obtain ⟨f, rest, hrxq⟩ := exists_frame_of_length (not_lt.1 hlt)
  cases hd : decode f with
  | some i => exact ⟨_, tick_of_operation hf hrxq hd, .operation hrxq hd⟩
  | none => exact ⟨_, tick_of_unassigned hf hrxq hd, .unassigned hrxq hd⟩

/-- What a tick that answers a next state has done. -/
theorem tick_eq_next {s t : State} (h : tick s = .next t) : s.fault = false ∧ TickPath s t := by
  cases hf : s.fault with
  | true => simp [tick_of_fault hf] at h
  | false =>
    obtain ⟨u, hu, hpath⟩ := tick_of_fault_clear hf
    obtain rfl : u = t := Host.Outcome.next.inj (hu.symm.trans h)
    exact ⟨rfl, hpath⟩

/-! ### A stimulus that answers a next state -/

/-- What each stimulus makes of a state where it answers a next state. -/
inductive StimulusEffect (s : State) : Stimulus → State → Prop
  | request {r : Request} {i : Instr} (hi : Request.operation r = some i) :
      StimulusEffect s (.request r) (encoderWrite i s)
  | carry (n : Nat) : StimulusEffect s (.carry n) (channelCarry n s)
  | deliver (n : Nat) : StimulusEffect s (.deliver n) (channelDeliver n s)
  | garble (n : Nat) (bs : List Byte) (h : s.channelLossless = false) :
      StimulusEffect s (.garble n bs) (replaceTransit n bs s)
  | tick {t : State} (hf : s.fault = false) (h : TickPath s t) : StimulusEffect s .tick t
  | resetDecoder (rxq0 : List Byte) (startOffset idleInterval : Nat) :
      StimulusEffect s (.resetDecoder rxq0 startOffset idleInterval) (resetDecoderHalf rxq0 startOffset idleInterval s)
  | resetEncoder (txq0 : List Byte) : StimulusEffect s (.resetEncoder txq0) (resetEncoderHalf txq0 s)

/-- What a request that is taken leaves. -/
theorem encoderRequest_eq_next {r : Request} {s t : State} (h : encoderRequest r s = .next t) :
    ∃ i, Request.operation r = some i ∧ t = encoderWrite i s := by
  unfold encoderRequest at h
  split at h
  next i hi => exact ⟨i, hi, (Host.Outcome.next.inj h).symm⟩
  next => cases h

theorem runStimulus_eq_next {x : Stimulus} {s t : State} (h : runStimulus x s = .next t) : StimulusEffect s x t := by
  cases x with
  | request r =>
    obtain ⟨i, hi, rfl⟩ := encoderRequest_eq_next h
    exact .request hi
  | carry n => cases h; exact .carry n
  | deliver n => cases h; exact .deliver n
  | garble n bs =>
    obtain ⟨hlossy, rfl⟩ := channelGarble_eq_next h
    exact .garble n bs hlossy
  | tick =>
    obtain ⟨hf, hpath⟩ := tick_eq_next h
    exact .tick hf hpath
  | resetDecoder rxq0 startOffset idleInterval => cases h; exact .resetDecoder rxq0 startOffset idleInterval
  | resetEncoder txq0 => cases h; exact .resetEncoder txq0

/-- A step is its stimulus's effect on the state in which that stimulus is no longer pending. -/
theorem step_eq_next {s t : State} (h : step s = .next t) :
    ∃ xs, StimulusEffect { s with stimuli := xs } (takeStimulus s).1 t := by
  obtain ⟨xs, hxs⟩ := takeStimulus_frame s
  exact ⟨xs, hxs ▸ runStimulus_eq_next h⟩

end Sys2Proof.Machine

/-! ## The family 10_state.md: the invariant, the pin events, time, the fault mark, alignment, the configuration -/

namespace Sys2Proof.Machine

/-! ### The invariant -/

/-- The fields the invariant speaks of. -/
def State.invFields (s : State) :=
  (s.pinMode, s.pinLevel, s.pinAnalog, s.trace, s.validPins, s.ef, s.fb, s.brightnessMap)

/-- The invariant sees no other field. -/
theorem inv_of_invFields {s t : State} (h : Inv s) (heq : t.invFields = s.invFields) : Inv t := by
  simp only [State.invFields, Prod.mk.injEq] at heq
  obtain ⟨hmode, hlevel, hanalog, htrace, hpins, hef, hfb, hmap⟩ := heq
  exact
    { modeWf := hmode ▸ h.modeWf
      levelWf := hlevel ▸ h.levelWf
      analogWf := hanalog ▸ h.analogWf
      modeTrace := by rw [hmode, htrace, h.modeTrace]
      levelTrace := by rw [hlevel, htrace, h.levelTrace]
      analogTrace := by rw [hanalog, htrace, h.analogTrace]
      accepted := fun e he => (Event.accepted_congr hpins).trans (h.accepted e (htrace ▸ he))
      efEmpty := hef.trans h.efEmpty
      fbEmpty := hfb.trans h.fbEmpty
      brightness := hmap ▸ h.brightness }

/-- The invariant of a decoder that has emitted nothing yet. -/
theorem inv_of_blank {s : State} (hmode : s.pinMode = []) (hlevel : s.pinLevel = []) (hanalog : s.pinAnalog = [])
    (htrace : s.trace = []) (hef : s.ef = none) (hfb : s.fb = []) (hmap : BrightnessOk s.brightnessMap) : Inv s where
  modeWf := hmode ▸ Memory.wf_nil
  levelWf := hlevel ▸ Memory.wf_nil
  analogWf := hanalog ▸ Memory.wf_nil
  modeTrace := by rw [hmode, htrace]; rfl
  levelTrace := by rw [hlevel, htrace]; rfl
  analogTrace := by rw [hanalog, htrace]; rfl
  accepted := by simp [htrace]
  efEmpty := hef
  fbEmpty := hfb
  brightness := hmap

@[simp] theorem replayMode_concat (es : List Event) (e : Event) :
    replayMode (es ++ [e]) = e.onMode (replayMode es) := by
  simp [replayMode]

@[simp] theorem replayLevel_concat (es : List Event) (e : Event) :
    replayLevel (es ++ [e]) = e.onLevel (replayLevel es) := by
  simp [replayLevel]

@[simp] theorem replayAnalog_concat (es : List Event) (e : Event) :
    replayAnalog (es ++ [e]) = e.onAnalog (replayAnalog es) := by
  simp [replayAnalog]

/-- An accepted event writes to the maps what it adds to the trace. -/
theorem inv_applyEvent {e : Event} {s : State} (he : e.accepted s = true) (h : Inv s) : Inv (applyEvent e s) where
  modeWf := Event.onMode_wf e _ h.modeWf
  levelWf := Event.onLevel_wf e _ h.levelWf
  analogWf := Event.onAnalog_wf e _ h.analogWf
  modeTrace := by rw [applyEvent_trace, replayMode_concat, ← h.modeTrace, applyEvent_pinMode]
  levelTrace := by rw [applyEvent_trace, replayLevel_concat, ← h.levelTrace, applyEvent_pinLevel]
  analogTrace := by rw [applyEvent_trace, replayAnalog_concat, ← h.analogTrace, applyEvent_pinAnalog]
  accepted := by
    intro f hf
    rw [Event.accepted_congr (applyEvent_validPins s e)]
    rcases List.mem_append.1 hf with hf | hf
    · exact h.accepted f hf
    · exact List.mem_singleton.1 hf ▸ he
  efEmpty := h.efEmpty
  fbEmpty := h.fbEmpty
  brightness := h.brightness

theorem inv_emitAll (es : List Event) {s : State} (h : Inv s) : Inv (emitAll es s) :=
  emitAll_preserves (fun _ _ he hs => inv_applyEvent he hs) (fun _ hs => inv_of_invFields hs rfl) es h

/-- A tick keeps the invariant: what it emits, it emits as from the state in which FB is already cleared. -/
theorem inv_of_tickPath {s t : State} (hpath : TickPath s t) (h : Inv s) : Inv t := by
  cases hpath with
  | idle _ =>
    exact inv_applyEvent (accepted_of_no_pin rfl _) (inv_of_invFields h (by simp [State.invFields, h.fbEmpty]))
  | short _ _ => exact inv_of_invFields h (by simp [State.invFields, shortRead, h.fbEmpty])
  | operation _ _ =>
    rw [clearFb_emitAll]
    exact inv_emitAll _ (inv_of_invFields h (by simp [State.invFields, h.fbEmpty]))
  | @unassigned f _ _ _ =>
    have hclear : Inv (clearFb (rxRead frameBytes (clearFb s))) :=
      inv_of_invFields h (by simp [State.invFields, h.fbEmpty])
    exact inv_applyEvent (e := .diag f.kind) (accepted_of_no_pin rfl _) hclear

theorem inv_of_stimulusEffect {s t : State} {x : Stimulus} (heffect : StimulusEffect s x t) (h : Inv s) : Inv t := by
  cases heffect with
  | request _ => exact inv_of_invFields h (by simp [State.invFields, encoderWrite_eq, h.efEmpty])
  | carry n => exact inv_of_invFields h rfl
  | deliver n => exact inv_of_invFields h rfl
  | garble n bs _ => exact inv_of_invFields h rfl
  | tick _ hpath => exact inv_of_tickPath hpath h
  | resetDecoder rxq0 startOffset idleInterval => exact inv_of_blank rfl rfl rfl rfl h.efEmpty rfl h.brightness
  | resetEncoder txq0 => exact inv_of_invFields h (by simp [State.invFields, h.efEmpty])

/-- Settles O43: a step is the effect of one stimulus, and only accepted events and a reset touch the pin maps. -/
theorem stepKeepsInvariant : Obligations.StepKeepsInvariant := by
  intro s t h hstep
  obtain ⟨xs, heffect⟩ := step_eq_next hstep
  exact inv_of_stimulusEffect heffect (inv_of_invFields h rfl)

/-! ### The effect of the pin events (10_state.md R32 to R34) -/

@[simp] theorem levelInterp_zero : levelInterp 0 = .low := rfl

@[simp] theorem levelInterp_one : levelInterp 1 = .high := rfl

/-- Settles O20: an accepted event writes the map it is made for, and the map's laws say what is then read. -/
theorem pinEventsWriteOneEntry : Obligations.PinEventsWriteOneEntry := by
  intro pin v b s
  refine ⟨fun h => ⟨?mode, ?level, ?analog⟩, fun h => ⟨?_, ?_, ?_⟩⟩
  case mode =>
    rw [emit_of_valid_pin rfl h]
    exact ⟨Memory.read_write_same _ _ _, fun q hq => Memory.read_write_ne _ _ _ _ hq, rfl, rfl,
      by simp [State.direction, Memory.read_write_same, modeInterp]⟩
  case level =>
    rw [emit_of_valid_pin rfl h]
    have hlevel : (applyEvent (.pinWrite pin v) s).drivenLevel pin = some (levelInterp v) := by
      simp [State.drivenLevel, Memory.read_write_same]
    exact ⟨Memory.read_write_same _ _ _, fun q hq => Memory.read_write_ne _ _ _ _ hq, rfl, rfl,
      fun hv => by rw [hlevel, hv, levelInterp_zero], fun hv => by rw [hlevel, hv, levelInterp_one]⟩
  case analog =>
    rw [emit_of_valid_pin rfl h]
    exact ⟨Memory.read_write_same _ _ _, fun q hq => Memory.read_write_ne _ _ _ _ hq, rfl, rfl⟩
  all_goals exact emit_of_invalid_pin rfl h

/-! ### Carrying out an operation twice (20_memory.md R58) -/

theorem Event.onMode_onMode (e : Event) (m : Memory p2Bits) : e.onMode (e.onMode m) = e.onMode m := by
  cases e
  case pinMode pin mode => exact Memory.write_write m pin mode mode
  all_goals rfl

theorem Event.onLevel_onLevel (e : Event) (m : Memory p2Bits) : e.onLevel (e.onLevel m) = e.onLevel m := by
  cases e
  case pinWrite pin level => exact Memory.write_write m pin level level
  all_goals rfl

theorem Event.onAnalog_onAnalog (e : Event) (m : Memory analogBits) : e.onAnalog (e.onAnalog m) = e.onAnalog m := by
  cases e
  case analogWrite pin v => exact Memory.write_write m pin v v
  all_goals rfl

theorem mapped_congr {pct : Param2} {s t : State} (h : t.brightnessMap = s.brightnessMap) :
    mapped pct t = mapped pct s := by
  unfold mapped
  rw [h]

/-- Every operation but PULSE, with BRIGHT at a percentage of a fixed value, is the emission of one event, the same in
every state with the same brightness map. -/
theorem exec_eq_emit {i : Instr} {s : State} (hpulse : ∀ pin, i ≠ .pulse pin)
    (hbright : ∀ pin percent, i = .bright pin percent → (mapped percent s).isSome) :
    ∃ e : Event, e.pin? = Instr.pin? i ∧
      ∀ t : State, t.brightnessMap = s.brightnessMap → exec i t = .next (emit e t) := by
  cases i with
  | pinmode pin mode => exact ⟨.pinMode pin mode, rfl, fun t _ => rfl⟩
  | pinwrite pin level => exact ⟨.pinWrite pin level, rfl, fun t _ => rfl⟩
  | waitus duration => exact ⟨.delayUs duration, rfl, fun t _ => rfl⟩
  | pulse pin => exact absurd rfl (hpulse pin)
  | bright pin percent =>
    obtain ⟨v, hv⟩ := Option.isSome_iff_exists.1 (hbright pin percent rfl)
    refine ⟨.analogWrite pin v, rfl, fun t ht => ?_⟩
    rw [exec, execBright, brightness_of_mapped ((mapped_congr ht).trans hv)]

/-- Settles O21: both times the same event is emitted, and no event's effect on a map is changed by having it twice. -/
theorem pinOperationsAreIdempotentOnPins : Obligations.PinOperationsAreIdempotentOnPins := by
  intro i s t u hpulse hbright haccepted ht hu
  obtain ⟨e, hpin, hexec⟩ := exec_eq_emit hpulse hbright
  have he : e.accepted s = true := (accepted_eq_pinAccepted hpin s).trans haccepted
  rw [hexec s rfl, emit_of_accepted he] at ht
  obtain rfl := Host.Outcome.next.inj ht
  rw [hexec (applyEvent e s) rfl, emit_of_accepted ((Event.accepted_congr (applyEvent_validPins s e)).trans he)] at hu
  obtain rfl := Host.Outcome.next.inj hu
  exact ⟨Event.onMode_onMode e _, Event.onLevel_onLevel e _, Event.onAnalog_onAnalog e _, [e], List.cons_ne_nil _ _,
    rfl, rfl⟩

/-! ### Lower bounds on time (10_state.md R35, R36) -/

@[simp] theorem minWaitUs_append (es fs : List Event) : minWaitUs (es ++ fs) = minWaitUs es + minWaitUs fs := by
  simp [minWaitUs]

@[simp] theorem idleUnits_append (es fs : List Event) : idleUnits (es ++ fs) = idleUnits es + idleUnits fs := by
  simp [idleUnits]

@[simp] theorem minWaitUs_idle (n : Nat) : minWaitUs [.idle n] = n * Config.idleUnitUs := rfl

@[simp] theorem idleUnits_idle (n : Nat) : idleUnits [.idle n] = n := rfl

@[simp] theorem idleUnits_diag (tag : Kind) : idleUnits [.diag tag] = 0 := rfl

/-- Settles O24: a completed operation adds its events to the trace, and their bounds add. -/
theorem waitBoundOfOperations : Obligations.WaitBoundOfOperations := by
  intro i s h
  obtain ⟨t, hexec, htrace⟩ := exec_trace_of_accepted h
  refine ⟨t, hexec, ?_⟩
  rw [htrace, minWaitUs_append]
  cases i <;> rfl

/-- No operation asks for an idle yield. -/
theorem idleUnits_events (i : Instr) (s : State) : idleUnits (Instr.events i s) = 0 := by
  cases i <;> rfl

/-- Emitting events without an idle yield adds no idle unit, wherever the emission stops. -/
theorem idleUnits_emitAll {es : List Event} (h : idleUnits es = 0) (s : State) :
    idleUnits (emitAll es s).trace = idleUnits s.trace := by
  obtain ⟨fs, ⟨gs, rfl⟩, htrace⟩ := emitAll_trace_prefix es s
  rw [idleUnits_append] at h
  rw [htrace, idleUnits_append]
  omega

/-- A tick that reads adds no idle unit. -/
theorem idleUnits_of_tickPath {s t : State} (hpath : TickPath s t) (hne : s.rxq ≠ []) :
    idleUnits t.trace = idleUnits s.trace := by
  cases hpath with
  | idle h => exact absurd h hne
  | short _ _ => rfl
  | operation _ _ => rw [clearFb_trace, idleUnits_emitAll (idleUnits_events _ _), source_trace]; rfl
  | unassigned _ _ => simp

/-- Settles O49: the two cases are the idle path of the tick and the three that read. -/
theorem idleTickAddsItsInterval : Obligations.IdleTickAddsItsInterval := by
  intro s hf
  refine ⟨fun hnil => ⟨_, tick_of_rxq_nil hf hnil, by simp, by simp⟩, fun hne => ?_⟩
  obtain ⟨t, ht, hpath⟩ := tick_of_fault_clear hf
  exact ⟨t, ht, idleUnits_of_tickPath hpath hne⟩

/-! ### The fault mark (10_state.md R38) -/

/-- A frame that names a pin outside VALID_PINS ends its tick with InvalidPin. -/
theorem tick_of_invalid_pin {s : State} {i : Instr} {rest : List Byte} (hf : s.fault = false)
    (hdecode : decodeBytes s.rxq = .operation i rest) (hpin : Instr.pinAccepted i s = false) :
    tick s = .next (clearFb (raiseInvalidPin (Instr.source i (rxRead frameBytes (clearFb s))))) := by
  obtain ⟨f, hrxq, hd⟩ := decodeBytes_eq_operation hdecode
  have hpin' : Instr.pinAccepted i (rxRead frameBytes (clearFb s)) = false := (pinAccepted_congr rfl).trans hpin
  rw [tick_of_operation hf hrxq hd, emitAll_events_of_rejected hpin']

/-- Whatever a faulted decoder's step is, if no reset of the decoder, it is no tick and leaves the mark. -/
theorem fault_of_stimulusEffect {s t : State} {x : Stimulus} (h : StimulusEffect s x t) (hf : s.fault = true)
    (hreset : ∀ bs o n, x ≠ .resetDecoder bs o n) : t.fault = true := by
  cases h with
  | request _ => simpa [encoderWrite_eq] using hf
  | carry n => exact hf
  | deliver n => exact hf
  | garble n bs _ => exact hf
  | tick hclear _ => simp [hf] at hclear
  | resetDecoder rxq0 startOffset idleInterval => exact absurd rfl (hreset _ _ _)
  | resetEncoder txq0 => exact hf

/-- Settles O30: the tick of an invalid pin, the tick of a faulted decoder, and every other step of one. -/
theorem faultIsFinalUntilReset : Obligations.FaultIsFinalUntilReset := by
  refine ⟨fun i rest s hf hdecode hpin => ?_, fun s hf => tick_of_fault hf, fun s t hf hstep hreset => ?_⟩
  · exact ⟨_, tick_of_invalid_pin hf hdecode hpin, by simp⟩
  · obtain ⟨xs, heffect⟩ := step_eq_next hstep
    exact fault_of_stimulusEffect heffect hf hreset

/-! ### Alignment under ticks (20_memory.md R54) -/

/-- Every tick advances RXPOS by what its read takes off the front of RXQ. -/
theorem rxpos_of_tickPath {s t : State} (hpath : TickPath s t) : t.rxpos = s.rxpos + min frameBytes s.rxq.length := by
  cases hpath with
  | idle h => simp [h]
  | short _ _ => simp [shortRead]
  | operation _ _ => simp
  | unassigned _ _ => simp

theorem wholeArrival_iff (s : State) : s.wholeArrival = true ↔ s.rxq.length = 0 ∨ frameBytes ≤ s.rxq.length := by
  simp [State.wholeArrival]

/-- Settles O31: a tick reads 0 or 5 bytes on a whole arrival and 1 to 4 otherwise. -/
theorem shortReadBreaksAlignment : Obligations.ShortReadBreaksAlignment := by
  intro s t h
  have hpos : t.rxpos = s.rxpos + min 5 s.rxq.length := rxpos_of_tickPath (tick_eq_next h).2
  have hwhole : s.wholeArrival = true ↔ s.rxq.length = 0 ∨ 5 ≤ s.rxq.length := wholeArrival_iff s
  refine ⟨fun hw => ?_, fun hw => ?_⟩
  · have hlen := hwhole.1 hw
    omega
  · have hlen : ¬(s.rxq.length = 0 ∨ 5 ≤ s.rxq.length) := fun hl => by simp [hwhole.2 hl] at hw
    omega

/-! ### The configuration (10_state.md R28, 41_decoder.md R142) -/

/-- The parameters of R6 and R138 that no step changes. -/
def State.parameters (s : State) := (s.validPins, s.brightnessMap, s.channelLossless)

/-- The encoder has one stream to be bound to (10_state.md R21). -/
theorem txDest_eq (s t : State) : t.txDest = s.txDest := rfl

theorem parameters_of_tickPath {s t : State} (hpath : TickPath s t) :
    t.parameters = s.parameters ∧ t.idleInterval = s.idleInterval := by
  cases hpath with
  | idle _ => exact ⟨rfl, rfl⟩
  | short _ _ => exact ⟨rfl, rfl⟩
  | operation _ _ => simp [State.parameters]
  | unassigned _ _ => exact ⟨rfl, rfl⟩

theorem parameters_of_stimulusEffect {s t : State} {x : Stimulus} (h : StimulusEffect s x t) :
    t.parameters = s.parameters ∧
      (t.idleInterval = s.idleInterval ∨ ∃ bs o n, x = .resetDecoder bs o n ∧ t.idleInterval = n) := by
  cases h with
  | request _ => simp [State.parameters, encoderWrite_eq]
  | carry n => exact ⟨rfl, .inl rfl⟩
  | deliver n => exact ⟨rfl, .inl rfl⟩
  | garble n bs _ => exact ⟨rfl, .inl rfl⟩
  | tick _ hpath => exact (parameters_of_tickPath hpath).imp_right .inl
  | resetDecoder rxq0 startOffset idleInterval => exact ⟨rfl, .inr ⟨_, _, _, rfl, rfl⟩⟩
  | resetEncoder txq0 => exact ⟨rfl, .inl rfl⟩

/-- Settles O36: a step is the effect of one stimulus, and only a reset of the decoder takes an idle interval. -/
theorem framesCannotChangeConfiguration : Obligations.FramesCannotChangeConfiguration := by
  intro s t h
  obtain ⟨xs, heffect⟩ := step_eq_next h
  obtain ⟨hparameters, hidle⟩ := parameters_of_stimulusEffect heffect
  simp only [State.parameters, Prod.mk.injEq] at hparameters
  obtain ⟨hpins, hmap, hlossless⟩ := hparameters
  exact ⟨hpins, hmap, hlossless, txDest_eq s t, hidle⟩

/-! ### Reset (10_state.md R41) -/

/-- Settles O40: `State.construct` is the reset table. -/
theorem resetTable : Obligations.ResetTable := by
  refine ⟨fun p => ?_, rfl, rfl, rfl, rfl⟩
  exact ⟨rfl, rfl, rfl, rfl, rfl, rfl, rfl, rfl, rfl, fun _ => ⟨rfl, rfl, rfl⟩, rfl, rfl, rfl⟩

/-- The default map on the percentages, as a number: nothing is lost in the 8 bits. -/
theorem defaultBrightness_toNat {p : Nat} (h : p ≤ 100) : (Const.defaultBrightness p).toNat = 20 + p * 205 / 100 := by
  have hval : 20 + p * 205 / 100 < 2 ^ 8 := by omega
  exact Nat.mod_eq_of_lt hval

/-- The default table has the properties R138 asks for: it rises because the division is monotone. -/
theorem brightnessOk_defaultBrightnessMap : BrightnessOk Const.defaultBrightnessMap := by
  refine ⟨by simp [Const.defaultBrightnessMap], rfl, rfl, ?_⟩
  refine List.pairwise_map.2 (List.pairwise_lt_range.imp_of_mem fun {p q} hp hq hlt => ?_)
  have hp' : p ≤ 100 := Nat.lt_succ_iff.1 (List.mem_range.1 hp)
  have hq' : q ≤ 100 := Nat.lt_succ_iff.1 (List.mem_range.1 hq)
  rw [defaultBrightness_toNat hp', defaultBrightness_toNat hq']
  omega

theorem inv_construct {p : Setup} (h : BrightnessOk p.brightnessMap) : Inv (State.construct p) :=
  inv_of_blank rfl rfl rfl rfl rfl rfl h

/-- Settles O42: nothing is written and nothing emitted yet, and the default table is one of R138's. -/
theorem invariantAtReset : Obligations.InvariantAtReset :=
  ⟨fun _ h => inv_construct h, inv_construct brightnessOk_defaultBrightnessMap⟩

end Sys2Proof.Machine

/-! ## The family 20_memory.md: byte order, the stream, the trace, places in the sender's frames -/

namespace Sys2Proof

/-! ### Byte order (20_memory.md R50, R51) -/

/-- A field is its second byte over its first. -/
theorem joinBytes_eq_append (lo hi : Byte) : joinBytes lo hi = hi ++ lo := by
  unfold joinBytes
  ext i hi
  rw [BitVec.getElem_append]
  grind

theorem joinBytes_toNat (lo hi : Byte) : (joinBytes lo hi).toNat = lo.toNat + 256 * hi.toNat := by
  have hlo : lo.toNat < 2 ^ 8 := lo.isLt
  rw [joinBytes_eq_append, BitVec.toNat_append, ← Nat.shiftLeft_add_eq_or_of_lt hlo, Nat.shiftLeft_eq]
  omega

/-- The 40-bit value of a frame is its five bytes, each at its own place, the first in `F[7:0]` (R51). -/
theorem bits_joinBytes (b0 b1 b2 b3 b4 : Byte) :
    (Frame.mk b0 (joinBytes b1 b2) (joinBytes b3 b4)).bits =
      b0.setWidth 40 ||| (b1.setWidth 40 <<< 8) ||| (b2.setWidth 40 <<< 16) ||| (b3.setWidth 40 <<< 24) |||
        (b4.setWidth 40 <<< 32) := by
  unfold Frame.bits joinBytes
  ext i hi
  grind

/-- The fields of a frame's 40-bit value are the frame's. -/
theorem ofBits_bits (f : Frame) : Frame.ofBits f.bits = f := by
  obtain ⟨kind, p1, p2⟩ := f
  refine (Frame.mk.injEq ..).mpr ⟨?kind, ?p1, ?p2⟩
  all_goals
    ext i hi
    simp only [Frame.bits]
    grind

/-- Bits taken out of bits taken out. -/
theorem extractLsb'_extractLsb' {w start len start' len' : Nat} (F : BitVec w) (h : start + len ≤ len') :
    (F.extractLsb' start' len').extractLsb' start len = F.extractLsb' (start' + start) len := by
  ext i hi
  have hin : start + i < len' := by omega
  simp [hin, Nat.add_assoc]

theorem bitsBytes_eq_ser_ofBits (F : BitVec frameBits) : bitsBytes F = ser (Frame.ofBits F) := by
  simp [bitsBytes, ser, Frame.ofBits, lowByte, highByte, extractLsb'_extractLsb']

/-- What the encoder writes from EF is the serializer's bytes (40_encoder.md R101). -/
theorem bitsBytes_bits (f : Frame) : bitsBytes f.bits = ser f := by
  rw [bitsBytes_eq_ser_ofBits, ofBits_bits]

end Sys2Proof

namespace Sys2Proof.Machine

/-- Settles O4: the five bytes at their places are the 40-bit value of the frame the parser makes of them. -/
theorem fieldsOfFortyBitValue : Obligations.FieldsOfFortyBitValue := by
  intro b0 b1 b2 b3 b4 F
  have hF : Frame.ofBits F = { kind := b0, p1 := joinBytes b1 b2, p2 := joinBytes b3 b4 } := by
    rw [← ofBits_bits { kind := b0, p1 := joinBytes b1 b2, p2 := joinBytes b3 b4 }, bits_joinBytes]
  refine ⟨by rw [hF]; rfl, rfl, rfl, rfl, ?_, ?_⟩
  · rw [hF]; exact joinBytes_toNat b1 b2
  · rw [hF]; exact joinBytes_toNat b3 b4

/-! ### The lossless channel (20_memory.md R57) -/

theorem channelGarble_of_lossless (n : Nat) (bs : List Byte) {s : State} (h : s.channelLossless = true) :
    channelGarble n bs s = .refused .channelIsLossless :=
  if_pos h

theorem channelGarble_of_lossy (n : Nat) (bs : List Byte) {s : State} (h : s.channelLossless = false) :
    channelGarble n bs s = .next (replaceTransit n bs s) :=
  if_neg (by simp [h])

/-- Settles O34: a replacement is refused or made, by what is assumed of the channel. -/
theorem losslessChannelReplacesNothing : Obligations.LosslessChannelReplacesNothing :=
  fun n bs _ => ⟨channelGarble_of_lossless n bs, fun h => ⟨_, channelGarble_of_lossy n bs h, rfl, rfl, rfl⟩⟩

/-! ### The trace (20_memory.md R61) -/

theorem trace_prefix_of_tickPath {s t : State} (hpath : TickPath s t) : s.trace <+: t.trace := by
  cases hpath with
  | idle _ => exact ⟨_, rfl⟩
  | short _ _ => exact List.prefix_rfl
  | @operation _ _ i _ _ =>
    obtain ⟨fs, _, htrace⟩ := emitAll_trace_prefix (Instr.events i (rxRead frameBytes (clearFb s)))
      (Instr.source i (rxRead frameBytes (clearFb s)))
    exact ⟨fs, by rw [clearFb_trace, htrace, source_trace]; rfl⟩
  | unassigned _ _ => exact ⟨_, rfl⟩

theorem trace_of_stimulusEffect {s t : State} {x : Stimulus} (h : StimulusEffect s x t)
    (hreset : ∀ bs o n, x ≠ .resetDecoder bs o n) : s.trace <+: t.trace ∧ (x ≠ .tick → t.trace = s.trace) := by
  cases h with
  | request _ => simp [encoderWrite_eq]
  | carry n => exact ⟨List.prefix_rfl, fun _ => rfl⟩
  | deliver n => exact ⟨List.prefix_rfl, fun _ => rfl⟩
  | garble n bs _ => exact ⟨List.prefix_rfl, fun _ => rfl⟩
  | tick _ hpath => exact ⟨trace_prefix_of_tickPath hpath, fun h => absurd rfl h⟩
  | resetDecoder rxq0 startOffset idleInterval => exact absurd rfl (hreset _ _ _)
  | resetEncoder txq0 => exact ⟨List.prefix_rfl, fun _ => rfl⟩

/-- Settles O37: a step is the effect of one stimulus, and only a tick emits. -/
theorem traceOnlyGrows : Obligations.TraceOnlyGrows := by
  intro s t h hreset
  obtain ⟨xs, heffect⟩ := step_eq_next h
  exact (trace_of_stimulusEffect heffect hreset :)

/-! ### What a tick leaves of the stream (20_memory.md R55, R57) -/

/-- The three queues, and what places are counted by besides RXPOS. -/
def State.framing (s : State) := (s.rxq, s.transit, s.txq, s.slips, s.startOffset)

@[simp] theorem emitAll_framing (es : List Event) (s : State) : (emitAll es s).framing = s.framing :=
  emitAll_unchanged State.framing (fun _ _ => rfl) (fun _ => rfl) es s

@[simp] theorem source_framing (i : Instr) (s : State) : (Instr.source i s).framing = s.framing :=
  source_unchanged State.framing (fun _ _ => rfl) i s

@[simp] theorem clearFb_framing (s : State) : (clearFb s).framing = s.framing := rfl

/-- A tick takes what it reads off the front of RXQ, and leaves the channel, the sender and the notes of breaks. -/
theorem framing_of_tickPath {s t : State} (hpath : TickPath s t) :
    t.framing = (s.rxq.drop frameBytes, s.transit, s.txq, s.slips, s.startOffset) := by
  cases hpath with
  | idle h => simp [State.framing, h]
  | short _ _ => rfl
  | operation _ _ => rw [clearFb_framing, emitAll_framing, source_framing]; rfl
  | unassigned _ _ => rfl

theorem stream_of_tickPath {s t : State} (hpath : TickPath s t) :
    t.stream = s.stream.drop (min frameBytes s.rxq.length) := by
  have hframing := framing_of_tickPath hpath
  simp only [State.framing, Prod.mk.injEq] at hframing
  obtain ⟨hrxq, htransit, htxq, -, -⟩ := hframing
  unfold State.stream
  rw [hrxq, htransit, htxq, List.append_assoc, List.append_assoc, List.drop_append_of_le_length (min_le_right _ _),
    ← List.drop_eq_drop_min]

theorem slips_of_tickPath {s t : State} (hpath : TickPath s t) : t.slips = s.slips ∧ t.startOffset = s.startOffset := by
  have hframing := framing_of_tickPath hpath
  simp only [State.framing, Prod.mk.injEq] at hframing
  obtain ⟨-, -, -, hslips, hstart⟩ := hframing
  exact ⟨hslips, hstart⟩

/-! ### The stream under a stimulus that replaces nothing (20_memory.md R54, R57) -/

/-- A request puts its frame behind the stream. -/
theorem stream_encoderWrite (i : Instr) (s : State) : (encoderWrite i s).stream = s.stream ++ encode i := by
  simp [State.stream, encoderWrite_eq, bitsBytes_bits, encode]

/-- Carrying moves bytes within the stream. -/
theorem stream_channelCarry (n : Nat) (s : State) : (channelCarry n s).stream = s.stream := by
  simp [State.stream]

/-- Delivery moves bytes within the stream. -/
theorem stream_channelDeliver (n : Nat) (s : State) : (channelDeliver n s).stream = s.stream := by
  simp [State.stream]

/-- The stream loses only what a tick reads, which RXPOS counts, and gains only an operation's frame. -/
theorem stream_of_stimulusEffect {s t : State} {x : Stimulus} (h : StimulusEffect s x t) (hx : x.replaces = false) :
    ∃ k bs, k ≤ 5 ∧ k ≤ s.stream.length ∧ t.stream = s.stream.drop k ++ bs ∧ t.rxpos = s.rxpos + k ∧
      (bs = [] ∨ ∃ i, bs = encode i) := by
  cases h with
  | @request _ i _ =>
    exact ⟨0, encode i, by omega, by omega, stream_encoderWrite i s, by rw [encoderWrite_eq]; rfl, .inr ⟨i, rfl⟩⟩
  | carry n => exact ⟨0, [], by omega, by omega, by simp [stream_channelCarry], rfl, .inl rfl⟩
  | deliver n => exact ⟨0, [], by omega, by omega, by simp [stream_channelDeliver], rfl, .inl rfl⟩
  | tick _ hpath =>
    have hlen : min frameBytes s.rxq.length ≤ s.stream.length := by simp [State.stream]
    exact ⟨min frameBytes s.rxq.length, [], min_le_left _ _, hlen, by simp [stream_of_tickPath hpath],
      rxpos_of_tickPath hpath, .inl rfl⟩
  | garble n bs _ => cases hx
  | resetDecoder rxq0 startOffset idleInterval => cases hx
  | resetEncoder txq0 => cases hx

theorem byteCount_of_stimulusEffect {s t : State} {x : Stimulus} (h : StimulusEffect s x t) (hx : x.replaces = false) :
    (t.rxpos + t.stream.length) % 5 = (s.rxpos + s.stream.length) % 5 := by
  obtain ⟨k, bs, _, hlen, hstream, hpos, hbs⟩ := stream_of_stimulusEffect h hx
  have hwhole : bs.length % 5 = 0 := by
    rcases hbs with rfl | ⟨i, rfl⟩
    · rfl
    · rw [encode_length]; rfl
  rw [hstream, hpos, List.length_append, List.length_drop]
  omega

/-- Settles O33: a step is the effect of one stimulus. -/
theorem streamIsFifoAndLossless : Obligations.StreamIsFifoAndLossless := by
  intro s t h hx
  obtain ⟨xs, heffect⟩ := step_eq_next h
  exact (stream_of_stimulusEffect heffect hx :)

/-- Settles O35: what leaves the stream is counted by RXPOS, and what enters is a whole frame. -/
theorem byteCountStaysWholeFrames : Obligations.ByteCountStaysWholeFrames := by
  intro s t h hx hwhole
  obtain ⟨xs, heffect⟩ := step_eq_next h
  exact (byteCount_of_stimulusEffect heffect hx).trans hwhole

/-! ### The decoder's place (20_memory.md R54, R57; log entry 30) -/

/-- A tick moves the decoder's place on by what it reads and by the breaks it passes. -/
theorem readOffset_of_tickPath {s t : State} (hpath : TickPath s t) :
    t.readOffset = s.readOffset + (min frameBytes s.rxq.length : Nat) +
      netBetween s.rxpos (s.rxpos + min frameBytes s.rxq.length) s.slips := by
  obtain ⟨hslips, hstart⟩ := slips_of_tickPath hpath
  unfold State.readOffset
  rw [hslips, hstart, rxpos_of_tickPath hpath, netUpTo_add]
  omega

/-- A loss brings the slips within the lost bytes to its own offset. -/
theorem netUpTo_shift_lost (start lost : Nat) (xs : List Slip) :
    netUpTo start (xs.map (Slip.shift start lost 0)) = netUpTo (start + lost) xs := by
  induction xs with
  | nil => rfl
  | cons x xs ih =>
    have hp : (Slip.shift start lost 0 x).pos ≤ start ↔ x.pos ≤ start + lost := by
      simp only [Slip.shift]
      split_ifs <;> omega
    rw [List.map_cons, netUpTo_cons, netUpTo_cons, ih]
    simp only [hp, Slip.net_shift]

/-- The loss of bytes the decoder would read next moves its place on as reading them would. -/
theorem readOffset_replaceTransit_lost {k : Nat} {s : State} (hrxq : s.rxq = []) (hk : k ≤ s.transit.length) :
    (replaceTransit k [] s).readOffset = s.readOffset + k + netBetween s.rxpos (s.rxpos + k) s.slips := by
  have hstart : s.transitStart = s.rxpos := by simp [State.transitStart, hrxq]
  have hlost : (s.transit.take k).length = k := List.length_take_of_le hk
  unfold State.readOffset
  rw [replaceTransit_slips, hstart, hlost, replaceTransit_rxpos, replaceTransit_startOffset, List.length_nil,
    netUpTo_append, netUpTo_shift_lost, netUpTo_add, netUpTo_cons, netUpTo_nil, if_pos (by simp)]
  simp only [Slip.net]
  omega

/-- A replacement that ends behind the decoder's next byte leaves its place. -/
theorem readOffset_replaceTransit_ahead (n : Nat) {bs : List Byte} {s : State} (h : s.rxq ≠ [] ∨ bs ≠ []) :
    (replaceTransit n bs s).readOffset = s.readOffset := by
  have hahead : s.rxpos < s.transitStart + bs.length := by
    simp only [← List.length_pos_iff] at h
    unfold State.transitStart
    omega
  have hstart : s.rxpos ≤ s.transitStart := Nat.le_add_right _ _
  unfold State.readOffset
  rw [replaceTransit_slips, replaceTransit_rxpos, replaceTransit_startOffset, netUpTo_append,
    netUpTo_shift_ahead hahead hstart, netUpTo_cons, netUpTo_nil, if_neg (by simpa using hahead)]
  omega

/-- Settles O51: the tick, the loss at the decoder's next byte, and a replacement further back. -/
theorem lossCountsAsShortRead : Obligations.LossCountsAsShortRead := by
  refine ⟨fun s t h => readOffset_of_tickPath (tick_eq_next h).2, fun k s t hrxq hk h => ?_, fun n bs s t hahead h => ?_⟩
  · obtain ⟨-, rfl⟩ := channelGarble_eq_next h
    exact ⟨rfl, readOffset_replaceTransit_lost hrxq hk⟩
  · obtain ⟨-, rfl⟩ := channelGarble_eq_next h
    exact readOffset_replaceTransit_ahead n hahead

/-! ### Breaks (20_memory.md R54, R57, R192; log entry 30) -/

/-- A stimulus that replaces nothing makes no break. -/
theorem slips_of_stimulusEffect {s t : State} {x : Stimulus} (h : StimulusEffect s x t) (hx : x.replaces = false) :
    t.slips = s.slips ∧ t.startOffset = s.startOffset := by
  cases h with
  | request _ => simp [encoderWrite_eq]
  | carry n => exact ⟨rfl, rfl⟩
  | deliver n => exact ⟨rfl, rfl⟩
  | tick _ hpath => exact slips_of_tickPath hpath
  | garble n bs _ => cases hx
  | resetDecoder rxq0 startOffset idleInterval => cases hx
  | resetEncoder txq0 => cases hx

/-- On a lossless channel only the resets replace anything. -/
theorem replaces_of_lossless {s t : State} {x : Stimulus} (h : StimulusEffect s x t)
    (hlossless : s.channelLossless = true) (hdecoder : ∀ bs o n, x ≠ .resetDecoder bs o n)
    (hencoder : ∀ bs, x ≠ .resetEncoder bs) : x.replaces = false := by
  cases h with
  | garble n bs hlossy => rw [hlossless] at hlossy; cases hlossy
  | resetDecoder rxq0 startOffset idleInterval => exact absurd rfl (hdecoder _ _ _)
  | resetEncoder txq0 => exact absurd rfl (hencoder _)
  | request _ => rfl
  | carry n => rfl
  | deliver n => rfl
  | tick _ _ => rfl

/-- Where the bytes go on from those before them, there is no break. -/
theorem slipTo_eq_nil {pos : Nat} {here place : Int} (h : (place - here) % 5 = 0) : slipTo pos here place = [] :=
  if_pos h

/-- Settles O53: whole frames in all three queues go on from each other, and only a loss or a reset makes a break. -/
theorem alignedIsReadPositionUnderAssumptions : Obligations.AlignedIsReadPositionUnderAssumptions := by
  refine ⟨fun p hstart hrxq hrest => ⟨slipTo_eq_nil (by omega), hstart⟩, fun s t h hlossless hdecoder hencoder => ?_,
    fun s hslips hstart => ?_⟩
  · obtain ⟨xs, heffect⟩ := step_eq_next h
    exact (slips_of_stimulusEffect heffect (replaces_of_lossless heffect hlossless hdecoder hencoder) :)
  · have h5 : ((frameBytes : Nat) : Int) = 5 := rfl
    rw [aligned_iff, readOffset_of_no_slips hslips, h5]
    omega

/-! ### The sender's place (20_memory.md R53, R57; 70_reset_and_hazards.md R192) -/

/-- The sender's place, counted from the first byte in transit. -/
theorem sentOffset_eq_transitPlace_add (s : State) :
    s.sentOffset = s.transitPlace + s.transit.length + s.txq.length +
      netAll (s.slips.filter fun x => decide (s.transitStart < x.pos)) := by
  unfold State.sentOffset State.transitPlace State.stream State.transitStart
  rw [netAll_eq_add_behind (s.rxpos + s.rxq.length) s.slips, List.length_append, List.length_append]
  omega

theorem sentOffset_construct (p : Setup) : (State.construct p).sentOffset % 5 = 0 := by
  have hbreak := netAll_slipTo p.rxq0.length (p.startOffset + p.rxq0.length) (-(p.transit0.length + p.txq0.length : Int))
  simp only [State.sentOffset, State.stream, State.construct, List.length_append]
  omega

/-- A replacement notes what it takes from the stream and what it puts there. -/
theorem sentOffset_replaceTransit (n : Nat) (bs : List Byte) (s : State) :
    (replaceTransit n bs s).sentOffset = s.sentOffset := by
  simp only [State.sentOffset, State.stream, replaceTransit_slips, replaceTransit_startOffset, replaceTransit_rxpos,
    replaceTransit_rxq, replaceTransit_transit, replaceTransit_txq, netAll_append, netAll_shift, netAll_cons, netAll_nil,
    Slip.net, List.length_append, List.length_take, List.length_drop]
  omega

/-- A decoder's new start is followed by a break that brings the bytes in transit to the place they had. -/
theorem sentOffset_resetDecoderHalf (rxq0 : List Byte) (o n : Nat) (s : State) :
    (resetDecoderHalf rxq0 o n s).sentOffset % 5 = s.sentOffset % 5 := by
  have hbreak := netAll_slipTo rxq0.length (o + rxq0.length) s.transitPlace
  rw [sentOffset_eq_transitPlace_add s]
  simp only [State.sentOffset, State.stream, resetDecoderHalf_slips, resetDecoderHalf_startOffset, resetDecoderHalf_rxpos,
    resetDecoderHalf_rxq, resetDecoderHalf_transit, resetDecoderHalf_txq, slipsAfterReset, netAll_append, netAll_map_pos,
    List.length_append]
  omega

/-- An encoder's new start is preceded by a break that brings its next frame to a boundary. -/
theorem sentOffset_resetEncoderHalf (txq0 : List Byte) (s : State) : (resetEncoderHalf txq0 s).sentOffset % 5 = 0 := by
  have hbreak := netAll_slipTo s.transitEnd s.transitEndPlace (-(txq0.length : Int))
  have hplace : s.transitEndPlace = s.startOffset + s.rxpos + s.rxq.length + s.transit.length + netAll s.slips := by
    unfold State.transitEndPlace State.transitEnd State.transitStart
    omega
  simp only [State.sentOffset, State.stream, resetEncoderHalf_slips, resetEncoderHalf_startOffset, resetEncoderHalf_rxpos,
    resetEncoderHalf_rxq, resetEncoderHalf_transit, resetEncoderHalf_txq, netAll_append, List.length_append]
  omega

/-- A stimulus that replaces nothing moves the sender on by whole frames. -/
theorem sentOffset_of_replaces_nothing {s t : State} {x : Stimulus} (h : StimulusEffect s x t) (hx : x.replaces = false) :
    t.sentOffset % 5 = s.sentOffset % 5 := by
  obtain ⟨hslips, hstart⟩ := slips_of_stimulusEffect h hx
  have hcount := byteCount_of_stimulusEffect h hx
  unfold State.sentOffset
  rw [hslips, hstart]
  omega

theorem sentOffset_of_stimulusEffect {s t : State} {x : Stimulus} (h : StimulusEffect s x t)
    (hwhole : s.sentOffset % 5 = 0) : t.sentOffset % 5 = 0 := by
  cases hx : x.replaces with
  | false => exact (sentOffset_of_replaces_nothing h hx).trans hwhole
  | true =>
    cases h with
    | garble n bs _ => rw [sentOffset_replaceTransit, hwhole]
    | resetDecoder rxq0 startOffset idleInterval => rw [sentOffset_resetDecoderHalf, hwhole]
    | resetEncoder txq0 => exact sentOffset_resetEncoderHalf txq0 s
    | request _ => cases hx
    | carry n => cases hx
    | deliver n => cases hx
    | tick _ _ => cases hx

/-- Settles O52: each break is noted with what brings the places behind it back to the sender's. -/
theorem senderPlacesStayWholeFrames : Obligations.SenderPlacesStayWholeFrames := by
  refine ⟨sentOffset_construct, fun s t h hwhole => ?_⟩
  obtain ⟨xs, heffect⟩ := step_eq_next h
  exact sentOffset_of_stimulusEffect heffect hwhole

end Sys2Proof.Machine

/-! ## The family 30_encoding.md: decoding, the unused p2, the pseudo-operations, long waits -/

namespace Sys2Proof

/-! ### Decoding the front of a stream (30_encoding.md R71, R75, R76) -/

/-- Where a frame selects an operation, its bytes decode to it, whatever follows them. -/
theorem decodeBytes_ser_append {f : Frame} {i : Instr} (h : decode f = some i) (rest : List Byte) :
    decodeBytes (ser f ++ rest) = .operation i rest := by
  simp [ser, decodeBytes, joinBytes_low_high, h]

/-- Settles O1: the encoded bytes are the operation's frame, and that frame selects the operation. -/
theorem decodeOfEncodeIsIdentity : Obligations.DecodeOfEncodeIsIdentity :=
  fun i rest => decodeBytes_ser_append (decode_toFrame i) rest

/-- Settles O7: the seven words are closed, and the decoder computes. -/
theorem specWordsDecode : Obligations.SpecWordsDecode := by
  unfold Obligations.SpecWordsDecode
  decide

/-- The mask 0xFF leaves the kind of a 40-bit value. -/
theorem mask_eq_setWidth_iff (F : BitVec 40) (k : Kind) :
    F &&& 0xFF#40 = k.setWidth 40 ↔ (Frame.ofBits F).kind = k := by
  have hmask : F &&& 0xFF#40 = (Frame.ofBits F).kind.setWidth 40 := by
    apply BitVec.eq_of_toNat_eq
    have hmod : F.toNat &&& 255 = F.toNat % 256 := Nat.and_two_pow_sub_one_eq_mod F.toNat 8
    simp [Frame.ofBits, hmod]
    omega
  rw [hmask]
  refine ⟨fun h => ?_, fun h => by rw [h]⟩
  simpa using congrArg (BitVec.setWidth 8) h

/-- A frame is its kind and its parameters: once the kind is known, `decode` computes. -/
theorem decode_of_kind {f : Frame} {k : Kind} (h : f.kind = k) :
    decode f = decode { kind := k, p1 := f.p1, p2 := f.p2 } := by
  rw [← h]

/-- Settles O5: the masked value is the kind, and the kind picks the branch of `decode`. -/
theorem kindAloneSelectsOperation : Obligations.KindAloneSelectsOperation := by
  intro F f
  have hkind : ∀ k : Kind, F &&& 0xFF#40 = k.setWidth 40 ↔ f.kind = k := mask_eq_setWidth_iff F
  refine ⟨fun h => decode_of_kind ((hkind 1).1 h), fun h => decode_of_kind ((hkind 2).1 h),
    fun h => decode_of_kind ((hkind 3).1 h), fun h => decode_of_kind ((hkind 4).1 h),
    fun h => decode_of_kind ((hkind 5).1 h), fun ⟨h1, h2, h3, h4, h5⟩ => ?_⟩
  exact (decode_eq_none_iff f).2
    ⟨mt (hkind 1).2 h1, mt (hkind 2).2 h2, mt (hkind 3).2 h3, mt (hkind 4).2 h4, mt (hkind 5).2 h5⟩

/-! ### Canonical frames (30_encoding.md R77) -/

theorem canonical_iff_of_decode {f : Frame} {i : Instr} (h : decode f = some i) :
    f.canonical = true ↔ i.toFrame = f := by
  simp [Frame.canonical, h]

theorem canonical_of_decode_none {f : Frame} (h : decode f = none) : f.canonical = false := by
  simp [Frame.canonical, h]

/-- Two frames with the same kind and p1 are one exactly where their p2 is the same. -/
theorem Frame.mk_inj_p2 {kind : Kind} {p1 : Param1} {a b : Param2} :
    Frame.mk kind p1 a = Frame.mk kind p1 b ↔ b = a := by
  simp [eq_comm]

/-- Settles O6: a frame is canonical where it is the frame of the operation it selects. -/
theorem unusedParameterIsIgnored : Obligations.UnusedParameterIsIgnored := by
  refine ⟨fun p1 p2 => ⟨?wait, ?pulse, rfl, rfl, ?mode, ?level, ?bright⟩, fun f hkind => ?unassigned, fun i => ?encoded⟩
  case wait => exact (canonical_iff_of_decode (i := .waitus p1) rfl).trans Frame.mk_inj_p2
  case pulse => exact (canonical_iff_of_decode (i := .pulse p1) rfl).trans Frame.mk_inj_p2
  case mode => exact (canonical_iff_of_decode (i := .pinmode p1 p2) rfl).2 rfl
  case level => exact (canonical_iff_of_decode (i := .pinwrite p1 p2) rfl).2 rfl
  case bright => exact (canonical_iff_of_decode (i := .bright p1 p2) rfl).2 rfl
  case unassigned => exact canonical_of_decode_none ((decode_eq_none_iff f).2 hkind)
  case encoded => exact (canonical_iff_of_decode (decode_toFrame i)).2 rfl

/-- Kinds 3 and 4 select an operation that p2 is no operand of. -/
theorem decode_ignores_p2 {k : Kind} (hk : k = 3 ∨ k = 4) (p1 : Param1) :
    ∃ i, ∀ p2 : Param2, decode { kind := k, p1 := p1, p2 := p2 } = some i := by
  rcases hk with rfl | rfl
  · exact ⟨.waitus p1, fun _ => rfl⟩
  · exact ⟨.pulse p1, fun _ => rfl⟩

end Sys2Proof

namespace Sys2Proof.Machine

/-! ### A tick on a frame is the direct execution of its operation -/

/-- Mapping the operand does not look at FB. -/
theorem brightness_clearFb (pct : Param2) (s : State) :
    brightness pct (clearFb s) = ((brightness pct s).1, clearFb (brightness pct s).2) := by
  have hm : mapped pct (clearFb s) = mapped pct s := rfl
  cases h : mapped pct s with
  | some v => rw [brightness_of_mapped h, brightness_of_mapped (hm.trans h)]
  | none => rw [brightness_of_unmapped h, brightness_of_unmapped (hm.trans h)]; rfl

theorem events_clearFb (i : Instr) (s : State) : Instr.events i (clearFb s) = Instr.events i s := by
  cases i with
  | bright pin percent => simp [Instr.events, brightness_clearFb]
  | pinmode pin mode => rfl
  | pinwrite pin level => rfl
  | waitus duration => rfl
  | pulse pin => rfl

theorem source_clearFb (i : Instr) (s : State) : Instr.source i (clearFb s) = clearFb (Instr.source i s) := by
  cases i with
  | bright pin percent => simp [Instr.source, brightness_clearFb]
  | pinmode pin mode => rfl
  | pinwrite pin level => rfl
  | waitus duration => rfl
  | pulse pin => rfl

/-- No executor looks at FB, so FB can as well be cleared before it. -/
theorem onNext_clearFb_exec (i : Instr) (s : State) : onNext clearFb (exec i s) = exec i (clearFb s) := by
  rw [exec_eq, exec_eq, events_clearFb, source_clearFb, ← clearFb_emitAll]
  rfl

/-- The tick on a frame carries out its operation in the state without these bytes: of them, only the operation matters. -/
theorem tick_eq_exec {s : State} {f : Frame} {rest : List Byte} {i : Instr} (hf : s.fault = false)
    (hrxq : s.rxq = ser f ++ rest) (hd : decode f = some i) :
    tick s = exec i { s with rxq := rest, fb := [], rxpos := s.rxpos + frameBytes } := by
  have hread : clearFb (rxRead frameBytes (clearFb s)) =
      { s with rxq := rest, fb := [], rxpos := s.rxpos + frameBytes } := by
    rw [rxRead_frame (s := clearFb s) hrxq]
    rfl
  rw [← hread, ← onNext_clearFb_exec, tick_of_frame hf hrxq, dispatchFrame, hd]

/-- Settles O50: the two frames select one operation, and both ticks are its direct execution in one state. -/
theorem nonCanonicalFrameTicksLikeCanonical : Obligations.NonCanonicalFrameTicksLikeCanonical := by
  intro k p1 p2 rest s hk hf
  obtain ⟨i, hi⟩ := decode_ignores_p2 hk p1
  have htick : ∀ p : Param2, tick { s with rxq := ser { kind := k, p1 := p1, p2 := p } ++ rest } =
      exec i { s with rxq := rest, fb := [], rxpos := s.rxpos + frameBytes } :=
    fun p => tick_eq_exec hf rfl (hi p)
  exact ⟨_, (htick p2).trans (exec_eq i _), (htick 0).trans (exec_eq i _)⟩

/-! ### The requests of a pseudo-operation (30_encoding.md R81, R82) -/

@[simp] theorem dataWrites_length {w : Nat} (v : BitVec w) (i : Nat) (ds : List Nat) :
    (dataWrites v i ds).length = ds.length := by
  induction ds generalizing i with
  | nil => rfl
  | cons d ds ih => simp [dataWrites, ih]

@[simp] theorem selectRequests_length (p : AsmPins) (rs : Bool) :
    (selectRequests p rs).length = 1 + if p.rw.isSome then 1 else 0 := by
  cases h : p.rw <;> simp [selectRequests, h]

@[simp] theorem nibbleRequests_length (p : AsmPins) (n : BitVec 4) :
    (nibbleRequests p n).length = min 4 p.d.length + 1 := by
  simp [nibbleRequests]

section CountPulses

/-! A test that holds of PULSE and not of a level write counts the pulses of a pseudo-operation. -/

variable {q : Request → Bool} (hlevel : ∀ pin level, q (.setPinLevel pin level) = false)
include hlevel

theorem countP_dataWrites {w : Nat} (v : BitVec w) (i : Nat) (ds : List Nat) : (dataWrites v i ds).countP q = 0 := by
  induction ds generalizing i with
  | nil => rfl
  | cons d ds ih => simp [dataWrites, hlevel, ih]

theorem countP_selectRequests (p : AsmPins) (rs : Bool) : (selectRequests p rs).countP q = 0 := by
  cases h : p.rw <;> simp [selectRequests, h, hlevel]

variable (hpulse : ∀ pin, q (.pulseEnable pin) = true)
include hpulse

theorem countP_nibbleRequests (p : AsmPins) (n : BitVec 4) : (nibbleRequests p n).countP q = 1 := by
  simp [nibbleRequests, countP_dataWrites hlevel, hpulse]

theorem countP_send8Requests (p : AsmPins) (v : Byte) (rs : Bool) : (send8Requests p v rs).countP q = 1 := by
  simp [send8Requests, countP_dataWrites hlevel, countP_selectRequests hlevel, hpulse]

theorem countP_send4Requests (p : AsmPins) (v : Byte) (rs : Bool) : (send4Requests p v rs).countP q = 2 := by
  simp [send4Requests, countP_selectRequests hlevel, countP_nibbleRequests hlevel hpulse]

end CountPulses

theorem send8Requests_length {p : AsmPins} (h : p.d.length = 8) (v : Byte) (rs : Bool) :
    (send8Requests p v rs).length = 10 + if p.rw.isSome then 1 else 0 := by
  simp only [send8Requests, List.length_append, selectRequests_length, dataWrites_length, List.length_take, h,
    List.length_singleton]
  omega

theorem send4Requests_length {p : AsmPins} (h : 4 ≤ p.d.length) (v : Byte) (rs : Bool) :
    (send4Requests p v rs).length = 11 + if p.rw.isSome then 1 else 0 := by
  simp only [send4Requests, List.length_append, selectRequests_length, nibbleRequests_length]
  omega

/-- Settles O46: SEND8 is RS, RW, eight data lines and a pulse; SEND4 is RS, RW and two nibbles with a pulse each. -/
theorem sendFrameCounts : Obligations.SendFrameCounts := by
  intro p v rs isPulse rw
  have hlevel : ∀ pin level, isPulse (.setPinLevel pin level) = false := fun _ _ => rfl
  have hpulse : ∀ pin, isPulse (.pulseEnable pin) = true := fun _ => rfl
  refine ⟨fun h => ⟨send8Requests p v rs, if_pos h, ?_, ?_⟩, fun h => ⟨send4Requests p v rs, if_pos ?_, ?_, ?_⟩⟩
  · exact countP_send8Requests hlevel hpulse p v rs
  · exact send8Requests_length h v rs
  · simpa [AsmPins.wellFormed] using h
  · exact countP_send4Requests hlevel hpulse p v rs
  · exact send4Requests_length (by omega) v rs

/-! ### A wait of any length (70_reset_and_hazards.md R203) -/

/-- The durations of a split wait: each fits WAITUS's operand. -/
def splitDurations (us : Nat) : List Duration :=
  List.replicate (us / 65535) 65535 ++
    if us % 65535 = 0 then [] else [BitVec.ofNat durBits (us % 65535)]

theorem splitDurations_toNat (us : Nat) :
    (splitDurations us).map BitVec.toNat =
      List.replicate (us / 65535) 65535 ++ if us % 65535 = 0 then [] else [us % 65535] := by
  have hfit : us % 65535 % 65536 = us % 65535 := Nat.mod_eq_of_lt (by omega)
  unfold splitDurations
  split <;> simp [hfit]

/-- The split wait asks for these durations. -/
theorem splitWait_eq_map (us : Nat) :
    splitWait us = ((splitDurations us).map BitVec.toNat).map .waitMicroseconds := by
  have hmax : Const.maxWaitUs = 65535 := rfl
  rw [splitDurations_toNat, splitWait, hmax]
  split <;> simp

theorem splitDurations_sum (us : Nat) : ((splitDurations us).map BitVec.toNat).sum = us := by
  rw [splitDurations_toNat]
  split <;> simp <;> omega

theorem splitDurations_length (us : Nat) : (splitDurations us).length = (us + 65534) / 65535 := by
  unfold splitDurations
  split <;> simp <;> omega

/-- A duration of WAITUS's width is taken by the encoder. -/
theorem operation_waitMicroseconds (d : Duration) : Request.operation (.waitMicroseconds d.toNat) = some (.waitus d) := by
  simp [Request.operation, portOperand_toNat]

/-- Waits emit their delays one after another and change nothing else. -/
theorem runDirect_waits (ds : List Duration) (s : State) :
    runDirect (ds.map .waitus) s = .next { s with trace := s.trace ++ ds.map .delayUs } := by
  induction ds generalizing s with
  | nil => simp [runDirect]
  | cons d ds ih =>
    have hexec : exec (.waitus d) s = .next { s with trace := s.trace ++ [.delayUs d] } :=
      congrArg Host.Outcome.next (emit_of_accepted (accepted_of_no_pin rfl s))
    simp [runDirect, hexec, ih]

theorem minWaitUs_delays (ds : List Duration) : minWaitUs (ds.map .delayUs) = (ds.map BitVec.toNat).sum := by
  simp [minWaitUs, Event.minWaitUs, Function.comp_def]

/-- Settles O47: the requests of a split wait are WAITUS operations whose durations sum to it. -/
theorem splitWaitAddsUp : Obligations.SplitWaitAddsUp := by
  intro us s
  refine ⟨(splitDurations us).map .waitus, _, ?taken, runDirect_waits _ s, ?bound, ?count⟩
  case taken => simp [splitWait_eq_map, operation_waitMicroseconds, Function.comp_def]
  case bound => rw [minWaitUs_append, minWaitUs_delays, splitDurations_sum]
  case count => rw [List.length_map, splitDurations_length]

end Sys2Proof.Machine

/-! ## The family 40_encoder.md: the serializer, the request port, the encoder's frames in order -/

namespace Sys2Proof

/-! ### The serializer and the parser (40_encoder.md R101, 41_decoder.md R123, R136) -/

/-- A stream that begins with a frame is cut behind it. -/
theorem parseAll_ser_append (f : Frame) (rest : List Byte) : parseAll (ser f ++ rest) = f :: parseAll rest := by
  simp [ser, parseAll, joinBytes_low_high]

/-- Settles O3: the serializer's bytes are those that the encoder writes from EF. -/
theorem serializerIsFortyBitLittleEndian : Obligations.SerializerIsFortyBitLittleEndian :=
  fun _ _ _ => ⟨rfl, rfl, (bitsBytes_bits _).symm⟩

/-! ### The frame of an operation (40_encoder.md R103 to R107, R109) -/

theorem toFrame_kind_assigned (i : Instr) :
    i.toFrame.kind = 1 ∨ i.toFrame.kind = 2 ∨ i.toFrame.kind = 3 ∨ i.toFrame.kind = 4 ∨ i.toFrame.kind = 5 := by
  by_contra hkind
  have hnone : decode i.toFrame = none := (decode_eq_none_iff _).2 (by simpa only [not_or] using hkind)
  simp [decode_toFrame] at hnone

/-- The encoder fills the unused p2 of kinds 3 and 4 with 0 (30_encoding.md R72). -/
theorem toFrame_p2_of_unused {i : Instr} (h : i.toFrame.kind = 3 ∨ i.toFrame.kind = 4) : i.toFrame.p2 = 0 := by
  cases i with
  | waitus duration => rfl
  | pulse pin => rfl
  | pinmode pin mode => exact absurd h (by decide : ¬ (kindSetPinMode = 3 ∨ kindSetPinMode = 4))
  | pinwrite pin level => exact absurd h (by decide : ¬ (kindSetPinLevel = 3 ∨ kindSetPinLevel = 4))
  | bright pin percent => exact absurd h (by decide : ¬ (kindSetBrightness = 3 ∨ kindSetBrightness = 4))

theorem toFrame_canonical (i : Instr) : i.toFrame.canonical = true :=
  (canonical_iff_of_decode (decode_toFrame i)).2 rfl

end Sys2Proof

namespace Sys2Proof.Machine

/-! ### The frames of a list of operations (40_encoder.md R110) -/

@[simp] theorem frames_nil : frames [] = [] := rfl

@[simp] theorem frames_cons (i : Instr) (is : List Instr) : frames (i :: is) = encode i ++ frames is := rfl

theorem frames_length (is : List Instr) : (frames is).length = frameBytes * is.length := by
  induction is with
  | nil => rfl
  | cons i is ih =>
    rw [frames_cons, List.length_append, ih, encode_length, List.length_cons, Nat.mul_succ, Nat.add_comm]

/-- The frame of the `j`-th operation begins behind `j` whole frames. -/
theorem frames_drop_take (is : List Instr) (j : Nat) (h : j < is.length) :
    ((frames is).drop (frameBytes * j)).take frameBytes = encode is[j] := by
  induction is generalizing j with
  | nil => cases h
  | cons i is ih =>
    cases j with
    | zero => exact List.take_left' (encode_length i)
    | succ j =>
      have hskip : (frames (i :: is)).drop (frameBytes * (j + 1)) = (frames is).drop (frameBytes * j) := by
        rw [frames_cons, Nat.mul_succ, Nat.add_comm, ← List.drop_drop, List.drop_left' (encode_length i)]
      rw [hskip]
      exact ih j (Nat.lt_of_succ_lt_succ h)

theorem parseAll_frames (is : List Instr) : parseAll (frames is) = is.map Instr.toFrame := by
  induction is with
  | nil => rfl
  | cons i is ih => rw [frames_cons, encode, parseAll_ser_append, ih, List.map_cons]

/-- Settles O2: the parser undoes the serializer on each frame, and so on one frame after another. -/
theorem parserInvertsSerializer : Obligations.ParserInvertsSerializer :=
  ⟨fun _ _ _ => parse_ser _, parseAll_frames, fun _ => toFrame_p2_of_unused⟩

/-! ### The request port (40_encoder.md R100 to R108) -/

/-- A request that is taken leaves its operation's frame at the end of TXQ, and nothing in EF. -/
theorem encoderRequest_of_operation {r : Request} {i : Instr} (h : Request.operation r = some i) (s : State) :
    encoderRequest r s = .next { s with txq := s.txq ++ ser i.toFrame, ef := none } := by
  rw [encoderRequest, h, ← bitsBytes_bits, ← encoderWrite_eq]

theorem encoderRequest_of_operation_none {r : Request} (h : Request.operation r = none) (s : State) :
    encoderRequest r s = .refused .operandTooWide := by
  rw [encoderRequest, h]

theorem operation_setPinMode (pin : Pin) (mode : Param2) :
    Request.operation (.setPinMode pin.toNat mode.toNat) = some (.pinmode pin mode) := by
  simp [Request.operation, portOperand_toNat]

theorem operation_setPinLevel (pin : Pin) (level : Param2) :
    Request.operation (.setPinLevel pin.toNat level.toNat) = some (.pinwrite pin level) := by
  simp [Request.operation, portOperand_toNat]

theorem operation_pulseEnable (pin : Pin) : Request.operation (.pulseEnable pin.toNat) = some (.pulse pin) := by
  simp [Request.operation, portOperand_toNat]

theorem operation_setBrightness (pin : Pin) (percent : Param2) :
    Request.operation (.setBrightness pin.toNat percent.toNat) = some (.bright pin percent) := by
  simp [Request.operation, portOperand_toNat]

/-- Settles O8: each request asks for its operation, and leaves the frame of that operation. -/
theorem requestWritesItsFrame : Obligations.RequestWritesItsFrame := fun a b s =>
  ⟨encoderRequest_of_operation (operation_setPinMode a b) s,
    encoderRequest_of_operation (operation_setPinLevel a b) s,
    encoderRequest_of_operation (operation_waitMicroseconds a) s,
    encoderRequest_of_operation (operation_pulseEnable a) s,
    encoderRequest_of_operation (operation_setBrightness a b) s⟩

theorem portOperand_isSome (w n : Nat) : (portOperand w n).isSome = operandFits w n := by
  cases h : operandFits w n with
  | true => rw [portOperand_of_fits h, Option.isSome_some]
  | false => rw [portOperand_eq_none h, Option.isSome_none]

/-- One operand is taken where it fits. -/
theorem isSome_oneOperand {v : Nat} (op : BitVec v → Instr) (m : Nat) :
    (do return op (← portOperand v m) : Option Instr).isSome = operandFits v m := by
  rw [← portOperand_isSome]
  cases portOperand v m <;> rfl

/-- Two operands are taken where both fit. -/
theorem isSome_twoOperands {v w : Nat} (op : BitVec v → BitVec w → Instr) (m n : Nat) :
    (do return op (← portOperand v m) (← portOperand w n) : Option Instr).isSome =
      (operandFits v m && operandFits w n) := by
  rw [← portOperand_isSome, ← portOperand_isSome]
  cases portOperand v m <;> cases portOperand w n <;> rfl

/-- A request asks for an operation exactly where every operand fits its field. -/
theorem operation_isSome (r : Request) : (Request.operation r).isSome = r.wellFormed := by
  cases r with
  | setPinMode pin mode => exact isSome_twoOperands .pinmode pin mode
  | setPinLevel pin level => exact isSome_twoOperands .pinwrite pin level
  | waitMicroseconds duration => exact isSome_oneOperand .waitus duration
  | pulseEnable pin => exact isSome_oneOperand .pulse pin
  | setBrightness pin percent => exact isSome_twoOperands .bright pin percent

/-- Settles O9: whether a request asks for an operation decides whether it is taken. -/
theorem tooWideRequestIsRefused : Obligations.TooWideRequestIsRefused := by
  intro r s
  rw [← operation_isSome]
  cases h : Request.operation r with
  | some i => exact ⟨fun _ => ⟨_, encoderRequest_of_operation h s⟩, nofun⟩
  | none => exact ⟨nofun, fun _ => encoderRequest_of_operation_none h s⟩

/-- Settles O10: what is written is the frame of an operation. -/
theorem encoderWritesOnlyCanonicalFrames : Obligations.EncoderWritesOnlyCanonicalFrames := by
  intro r s t h
  obtain ⟨i, -, rfl⟩ := encoderRequest_eq_next h
  refine ⟨i.toFrame, ?_, toFrame_kind_assigned i, toFrame_p2_of_unused, toFrame_canonical i⟩
  rw [encoderWrite_eq, bitsBytes_bits]

/-! ### Requests one after another (40_encoder.md R110) -/

/-- A pending request that asks for an operation is the next step. -/
theorem step_of_request {r : Request} {i : Instr} {xs : List Stimulus} {s : State}
    (hpending : s.stimuli = .request r :: xs) (hi : Request.operation r = some i) :
    step s = .next { s with txq := s.txq ++ encode i, ef := none, stimuli := xs } := by
  rw [step_eq (takeStimulus_cons hpending)]
  exact encoderRequest_of_operation hi _

/-- As many steps as there are pending requests put the requests' frames at the end of TXQ, in order. -/
theorem steps_of_requests {rs : List Request} {is : List Instr} {s : State}
    (hops : rs.map Request.operation = is.map some) (hpending : s.stimuli = rs.map Stimulus.request) :
    ∃ t, steps rs.length s = .next t ∧ t.txq = s.txq ++ frames is := by
  induction rs generalizing is s with
  | nil =>
    obtain rfl : is = [] := List.map_eq_nil_iff.1 hops.symm
    exact ⟨s, rfl, by simp⟩
  | cons r rs ih =>
    obtain ⟨i, is, rfl, hi, hops⟩ := List.map_eq_cons_iff.1 hops.symm
    have hstep := step_of_request hpending hi.symm
    obtain ⟨t, hsteps, htxq⟩ :=
      ih (s := { s with txq := s.txq ++ encode i, ef := none, stimuli := rs.map .request }) hops.symm rfl
    exact ⟨t, (steps_succ_of_next hstep _).trans hsteps, by rw [htxq, frames_cons, List.append_assoc]⟩

/-- Settles O11: each step writes one frame, and every frame has the same length. -/
theorem requestsAppearInOrder : Obligations.RequestsAppearInOrder := by
  intro rs is s hops hpending
  obtain ⟨t, hsteps, htxq⟩ := steps_of_requests hops hpending
  have hcount : rs.length = is.length := by simpa using congrArg List.length hops
  exact ⟨t, hsteps, htxq, by rw [hcount]; exact frames_length is, frames_drop_take is⟩

end Sys2Proof.Machine

/-! ## The family 41_decoder.md: the five operations, the tick, the tick loop -/

namespace Sys2Proof.Machine

/-! ### What an operation leaves unchanged (41_decoder.md R141) -/

theorem exec_eq_next {i : Instr} {s t : State} (h : exec i s = .next t) :
    t = emitAll (Instr.events i s) (Instr.source i s) :=
  (Host.Outcome.next.inj ((exec_eq i s).symm.trans h)).symm

/-- What events, an InvalidPin and a draw do not change, no operation changes. -/
theorem exec_unchanged {α : Type} (field : State → α) (happly : ∀ e s, field (applyEvent e s) = field s)
    (hraise : ∀ s, field (raiseInvalidPin s) = field s) (hdraws : ∀ (s : State) n, field { s with draws := n } = field s)
    {i : Instr} {s t : State} (h : exec i s = .next t) : field t = field s := by
  rw [exec_eq_next h, emitAll_unchanged field happly hraise, source_unchanged field hdraws]

/-- The fields that no operation writes. -/
def State.outsideOperations (s : State) :=
  (s.ef, s.txq, s.transit, s.channelLossless, s.slips, s.startOffset, s.rxq, s.fb, s.rxpos, s.idleInterval, s.validPins,
    s.brightnessMap, s.records, s.stimuli)

theorem outsideOperations_of_exec {i : Instr} {s t : State} (h : exec i s = .next t) :
    t.outsideOperations = s.outsideOperations :=
  exec_unchanged State.outsideOperations (fun _ _ => rfl) (fun _ => rfl) (fun _ _ => rfl) h

theorem validPins_of_exec {i : Instr} {s t : State} (h : exec i s = .next t) : t.validPins = s.validPins :=
  exec_unchanged State.validPins (fun _ _ => rfl) (fun _ => rfl) (fun _ _ => rfl) h

theorem fb_of_exec {i : Instr} {s t : State} (h : exec i s = .next t) : t.fb = s.fb :=
  exec_unchanged State.fb (fun _ _ => rfl) (fun _ => rfl) (fun _ _ => rfl) h

@[simp] theorem source_fault (i : Instr) (s : State) : (Instr.source i s).fault = s.fault :=
  source_unchanged State.fault (fun _ _ => rfl) i s

/-- Accepted events leave the fault mark. -/
theorem emitAll_fault_of_accepted {es : List Event} {s : State} (h : ∀ e ∈ es, e.accepted s = true) :
    (emitAll es s).fault = s.fault := by
  rw [emitAll_of_accepted es s h]
  clear h
  induction es generalizing s with
  | nil => rfl
  | cons e es ih => exact ih

theorem fault_of_exec {i : Instr} {s t : State} (h : exec i s = .next t) :
    t.fault = (s.fault || !Instr.pinAccepted i s) := by
  rw [exec_eq_next h]
  cases hpin : Instr.pinAccepted i s with
  | true => simp [emitAll_fault_of_accepted (events_accepted hpin)]
  | false => simp [emitAll_events_of_rejected hpin]

@[simp] theorem emitAll_draws (es : List Event) (s : State) : (emitAll es s).draws = s.draws :=
  emitAll_unchanged State.draws (fun _ _ => rfl) (fun _ => rfl) es s

/-- Only a percentage without a fixed value takes a draw. -/
theorem source_draws_ne {i : Instr} {s : State} (h : (Instr.source i s).draws ≠ s.draws) :
    ∃ pin percent, i = .bright pin percent ∧ mapped percent s = none := by
  cases i with
  | bright pin percent =>
    cases hm : mapped percent s with
    | none => exact ⟨pin, percent, rfl, hm⟩
    | some v => exact absurd (by simp [Instr.source, brightness_of_mapped hm]) h
  | pinmode pin mode => exact absurd rfl h
  | pinwrite pin level => exact absurd rfl h
  | waitus duration => exact absurd rfl h
  | pulse pin => exact absurd rfl h

theorem trace_prefix_of_exec {i : Instr} {s t : State} (h : exec i s = .next t) : s.trace <+: t.trace := by
  obtain ⟨fs, -, htrace⟩ := emitAll_trace_prefix (Instr.events i s) (Instr.source i s)
  exact ⟨fs, by rw [exec_eq_next h, htrace, source_trace]⟩

/-! ### Which entries of the pin maps an operation can change -/

/-- What none of the events of a sequence changes, and an InvalidPin does not, the sequence does not change. -/
theorem emitAll_unchanged_of_mem {α : Type} (field : State → α) {es : List Event}
    (happly : ∀ e ∈ es, ∀ s, field (applyEvent e s) = field s) (hraise : ∀ s, field (raiseInvalidPin s) = field s)
    (s : State) : field (emitAll es s) = field s := by
  induction es generalizing s with
  | nil => rfl
  | cons e es ih =>
    obtain ⟨he, hes⟩ := List.forall_mem_cons.1 happly
    unfold emitAll
    split
    · exact (ih hes (applyEvent e s)).trans (he s)
    · exact hraise s

theorem Event.onMode_read {e : Event} {q : Pin} (h : ∀ mode, e ≠ .pinMode q mode) (m : Memory p2Bits) :
    (e.onMode m).read q = m.read q := by
  cases e
  case pinMode pin mode => exact Memory.read_write_ne m pin q mode (fun hq => h mode (hq ▸ rfl))
  all_goals rfl

theorem Event.onLevel_read {e : Event} {q : Pin} (h : ∀ level, e ≠ .pinWrite q level) (m : Memory p2Bits) :
    (e.onLevel m).read q = m.read q := by
  cases e
  case pinWrite pin level => exact Memory.read_write_ne m pin q level (fun hq => h level (hq ▸ rfl))
  all_goals rfl

theorem Event.onAnalog_read {e : Event} {q : Pin} (h : ∀ v, e ≠ .analogWrite q v) (m : Memory analogBits) :
    (e.onAnalog m).read q = m.read q := by
  cases e
  case analogWrite pin v => exact Memory.read_write_ne m pin q v (fun hq => h v (hq ▸ rfl))
  all_goals rfl

/-- An entry of PIN_MODE changes only by a PinMode event on its pin. -/
theorem emitAll_pinMode_read_ne {es : List Event} {s : State} {q : Pin}
    (h : (emitAll es s).pinMode.read q ≠ s.pinMode.read q) : ∃ mode, .pinMode q mode ∈ es := by
  by_contra hnot
  refine h (emitAll_unchanged_of_mem (fun t => t.pinMode.read q) (fun e he t => ?_) (fun _ => rfl) s)
  exact Event.onMode_read (fun mode hmode => hnot ⟨mode, hmode ▸ he⟩) _

/-- An entry of PIN_LEVEL changes only by a PinWrite event on its pin. -/
theorem emitAll_pinLevel_read_ne {es : List Event} {s : State} {q : Pin}
    (h : (emitAll es s).pinLevel.read q ≠ s.pinLevel.read q) : ∃ level, .pinWrite q level ∈ es := by
  by_contra hnot
  refine h (emitAll_unchanged_of_mem (fun t => t.pinLevel.read q) (fun e he t => ?_) (fun _ => rfl) s)
  exact Event.onLevel_read (fun level hlevel => hnot ⟨level, hlevel ▸ he⟩) _

/-- An entry of PIN_ANALOG changes only by an AnalogWrite event on its pin. -/
theorem emitAll_pinAnalog_read_ne {es : List Event} {s : State} {q : Pin}
    (h : (emitAll es s).pinAnalog.read q ≠ s.pinAnalog.read q) : ∃ v, .analogWrite q v ∈ es := by
  by_contra hnot
  refine h (emitAll_unchanged_of_mem (fun t => t.pinAnalog.read q) (fun e he t => ?_) (fun _ => rfl) s)
  exact Event.onAnalog_read (fun v hv => hnot ⟨v, hv ▸ he⟩) _

theorem pinMode_mem_events {i : Instr} {s : State} {q : Pin} {mode : Param2} (h : .pinMode q mode ∈ Instr.events i s) :
    i = .pinmode q mode := by
  cases i with
  | pinmode pin mode' => cases List.mem_singleton.1 h; rfl
  | pinwrite pin level => cases List.mem_singleton.1 h
  | waitus duration => cases List.mem_singleton.1 h
  | pulse pin => simp [Instr.events, pulseSequence] at h
  | bright pin percent => cases List.mem_singleton.1 h

theorem pinWrite_mem_events {i : Instr} {s : State} {q : Pin} {level : Param2}
    (h : .pinWrite q level ∈ Instr.events i s) : i = .pinwrite q level ∨ i = .pulse q := by
  cases i with
  | pinmode pin mode => cases List.mem_singleton.1 h
  | pinwrite pin level' => cases List.mem_singleton.1 h; exact .inl rfl
  | waitus duration => cases List.mem_singleton.1 h
  | pulse pin =>
    have hpin : q = pin := by simp [Instr.events, pulseSequence] at h; tauto
    exact .inr (hpin ▸ rfl)
  | bright pin percent => cases List.mem_singleton.1 h

theorem analogWrite_mem_events {i : Instr} {s : State} {q : Pin} {v : Analog}
    (h : .analogWrite q v ∈ Instr.events i s) : ∃ percent, i = .bright q percent := by
  cases i with
  | pinmode pin mode => cases List.mem_singleton.1 h
  | pinwrite pin level => cases List.mem_singleton.1 h
  | waitus duration => cases List.mem_singleton.1 h
  | pulse pin => simp [Instr.events, pulseSequence] at h
  | bright pin percent => cases List.mem_singleton.1 h; exact ⟨percent, rfl⟩

/-- Settles O19: the fields no event touches, the fault mark, the draws, the trace, and one entry of one pin map. -/
theorem operationsFrame : Obligations.OperationsFrame := by
  intro i s t h
  have houtside := outsideOperations_of_exec h
  simp only [State.outsideOperations, Prod.mk.injEq] at houtside
  obtain ⟨hef, htxq, htransit, hlossless, hslips, hstart, hrxq, hfb, hpos, hidle, hpins, hmap, hrecords,
    hstimuli⟩ := houtside
  have ht := exec_eq_next h
  refine ⟨txDest_eq t s, hef, htxq, htransit, hlossless, hslips, hstart, hrxq, hfb, hpos, hidle, hpins, hmap, hrecords,
    hstimuli, fault_of_exec h, fun hdraws => ?draws, trace_prefix_of_exec h,
    fun q => ⟨fun hne => ?mode, fun hne => ?level, fun hne => ?analog⟩⟩
  case draws =>
    rw [ht, emitAll_draws] at hdraws
    exact source_draws_ne hdraws
  case mode =>
    rw [ht, ← source_pinMode i s] at hne
    obtain ⟨mode, hmem⟩ := emitAll_pinMode_read_ne hne
    exact ⟨mode, pinMode_mem_events hmem⟩
  case level =>
    rw [ht, ← source_pinLevel i s] at hne
    obtain ⟨level, hmem⟩ := emitAll_pinLevel_read_ne hne
    exact (pinWrite_mem_events hmem).imp_left fun hi => ⟨level, hi⟩
  case analog =>
    rw [ht, ← source_pinAnalog i s] at hne
    obtain ⟨v, hmem⟩ := emitAll_pinAnalog_read_ne hne
    exact analogWrite_mem_events hmem

/-- An operation on an accepted pin completes: the fault mark stays as it is. -/
theorem fault_of_exec_of_accepted {i : Instr} {s t : State} (h : exec i s = .next t)
    (hpin : Instr.pinAccepted i s = true) : t.fault = s.fault := by
  simp [fault_of_exec h, hpin]

/-! ### The five operations (41_decoder.md R130 to R134) -/

/-- Settles O13: PINMODE is the emission of one event. -/
theorem pinmodeEmitsPinMode : Obligations.PinmodeEmitsPinMode := fun pin mode s =>
  ⟨rfl, fun h => congrArg Host.Outcome.next (emit_of_valid_pin (e := .pinMode pin mode) (s := s) rfl h),
    fun h => congrArg Host.Outcome.next (emit_of_invalid_pin (e := .pinMode pin mode) (s := s) rfl h)⟩

/-- Settles O14: PINWRITE is the emission of one event. -/
theorem pinwriteEmitsPinWrite : Obligations.PinwriteEmitsPinWrite := fun pin level s =>
  ⟨rfl, fun h => congrArg Host.Outcome.next (emit_of_valid_pin (e := .pinWrite pin level) (s := s) rfl h),
    fun h => congrArg Host.Outcome.next (emit_of_invalid_pin (e := .pinWrite pin level) (s := s) rfl h)⟩

/-- Settles O15: WAITUS is the emission of one event, which names no pin. -/
theorem waitusEmitsDelay : Obligations.WaitusEmitsDelay := fun duration _ s =>
  ⟨rfl, congrArg Host.Outcome.next (emit_of_accepted (accepted_of_no_pin (e := .delayUs duration) rfl s)), rfl⟩

/-- Of a pulse's three writes on its pin the last one stays. -/
theorem emitAll_pulseSequence {pin : Pin} {s : State} (h : pin ∈ s.validPins) :
    emitAll (pulseSequence pin) s =
      { s with trace := s.trace ++ pulseSequence pin, pinLevel := s.pinLevel.write pin Const.levelLow } := by
  rw [emitAll_of_accepted _ _ (pulseSequence_accepted h)]
  simp [pulseSequence, applyEvent, Memory.write_write]

/-- Settles O16: the six events are all accepted, or the first is not. -/
theorem pulseEmitsSixEvents : Obligations.PulseEmitsSixEvents := by
  intro pin p2 s
  refine ⟨rfl, fun h => congrArg Host.Outcome.next (emitAll_pulseSequence h), fun h => ?_⟩
  exact congrArg Host.Outcome.next (emitAll_events_of_rejected (i := .pulse pin) (decide_eq_false h))

/-! ### BRIGHT and the brightness map (41_decoder.md R134, R138, R139) -/

theorem mapped_of_le {pct : Param2} (h : pct.toNat ≤ 100) (s : State) :
    mapped pct s = s.brightnessMap[pct.toNat]? :=
  if_pos h

theorem mapped_of_gt {pct : Param2} (h : 100 < pct.toNat) (s : State) : mapped pct s = none :=
  if_neg (Nat.not_le.2 h)

/-- At a percentage of a fixed value BRIGHT is the emission of that value. -/
theorem exec_bright_of_mapped {pct : Param2} {s : State} {v : Analog} (h : mapped pct s = some v) (pin : Pin) :
    exec (.bright pin pct) s = .next (emit (.analogWrite pin v) s) := by
  rw [exec, execBright, brightness_of_mapped h]

/-- At any other percentage BRIGHT is the emission of the current draw, which is then taken. -/
theorem exec_bright_of_unmapped {pct : Param2} {s : State} (h : mapped pct s = none) (pin : Pin) :
    exec (.bright pin pct) s =
      .next (emit (.analogWrite pin (Config.brightnessDraw s.draws)) { s with draws := s.draws + 1 }) := by
  rw [exec, execBright, brightness_of_unmapped h]

/-- A table with R138's properties has a value for every percentage up to 100. -/
theorem exists_getElem?_of_brightnessOk {m : List Analog} (h : BrightnessOk m) {p : Nat} (hp : p ≤ 100) :
    ∃ v, m[p]? = some v := by
  have hlen : p < m.length := h.1 ▸ Nat.lt_succ_of_le hp
  exact ⟨m[p], List.getElem?_eq_getElem hlen⟩

/-- A table with R138's properties does not decrease. -/
theorem toNat_le_of_brightnessOk {m : List Analog} (h : BrightnessOk m) {p q : Nat} {v w : Analog} (hpq : p ≤ q)
    (hv : m[p]? = some v) (hw : m[q]? = some w) : v.toNat ≤ w.toNat := by
  obtain ⟨-, -, -, hrises⟩ := h
  obtain ⟨hp, rfl⟩ := List.getElem?_eq_some_iff.1 hv
  obtain ⟨hq, rfl⟩ := List.getElem?_eq_some_iff.1 hw
  rcases hpq.eq_or_lt with rfl | hlt
  · exact le_rfl
  · exact List.pairwise_iff_getElem.1 hrises p q hp hq hlt

/-- Settles O17: the percentage has a value in the table, and BRIGHT emits it. -/
theorem brightEmitsMappedPercent : Obligations.BrightEmitsMappedPercent := by
  intro pin percent s hok hle
  obtain ⟨v, hv⟩ := exists_getElem?_of_brightnessOk hok hle
  have hexec := exec_bright_of_mapped ((mapped_of_le hle s).trans hv) pin
  obtain ⟨-, hfirst, hlast, -⟩ := hok
  refine ⟨rfl, fun h => ⟨v, hv, ?zero, ?hundred, ?accepted⟩, fun h => ?rejected⟩
  case zero =>
    rintro rfl
    exact Option.some.inj (hv.symm.trans hfirst)
  case hundred =>
    rintro rfl
    exact Option.some.inj (hv.symm.trans hlast)
  case accepted => rw [hexec, emit_of_valid_pin rfl h]; rfl
  case rejected => rw [hexec, emit_of_invalid_pin rfl h]; rfl

/-- Settles O18: above 100 the map has no value, and BRIGHT emits the draw. -/
theorem brightAboveHundredTakesFreeValue : Obligations.BrightAboveHundredTakesFreeValue := by
  intro pin percent s habove
  have hexec := exec_bright_of_unmapped (mapped_of_gt habove s) pin
  exact ⟨fun h => hexec.trans (congrArg Host.Outcome.next (emit_of_valid_pin (s := { s with draws := _ }) rfl h)),
    fun h => hexec.trans (congrArg Host.Outcome.next (emit_of_invalid_pin (s := { s with draws := _ }) rfl h))⟩

/-- What an accepted BRIGHT leaves at its pin is the table's value. -/
theorem read_of_exec_bright {pin : Pin} {p : Param2} {s t : State} {v : Analog} (hok : BrightnessOk s.brightnessMap)
    (hpin : pin ∈ s.validPins) (hp : p.toNat ≤ 100) (h : exec (.bright pin p) s = .next t)
    (hread : t.pinAnalog.read pin = some v) : s.brightnessMap[p.toNat]? = some v := by
  obtain ⟨-, haccepted, -⟩ := brightEmitsMappedPercent pin p s hok hp
  obtain ⟨v', hv', -, -, hexec⟩ := haccepted hpin
  obtain rfl := Host.Outcome.next.inj (hexec.symm.trans h)
  rwa [← (Memory.read_write_same s.pinAnalog pin v').symm.trans hread]

/-- Settles O22: both values are the table's, which rises from 20 to 225. -/
theorem brightIsMonotone : Obligations.BrightIsMonotone := by
  intro pin p q s t u v w hok hpin hpq hq ht hu hreadv hreadw
  have hv := read_of_exec_bright hok hpin (hpq.trans hq) ht hreadv
  have hw := read_of_exec_bright hok hpin hq hu hreadw
  have hrises := hok
  obtain ⟨-, hfirst, hlast, -⟩ := hok
  exact ⟨toNat_le_of_brightnessOk hrises (Nat.zero_le _) hfirst hv, toNat_le_of_brightnessOk hrises hpq hv hw,
    toNat_le_of_brightnessOk hrises hq hw hlast⟩

theorem defaultBrightnessMap_getElem? {p : Nat} (h : p ≤ 100) :
    Const.defaultBrightnessMap[p]? = some (Const.defaultBrightness p) := by
  have hlt : p < Const.pctMax + 1 := Nat.lt_succ_of_le h
  simp [Const.defaultBrightnessMap, hlt]

/-- Settles O23: the default table's value at a percentage is the formula. -/
theorem defaultMapIsTruncatingLinear : Obligations.DefaultMapIsTruncatingLinear := by
  refine ⟨brightnessOk_defaultBrightnessMap, fun pin p s hmap hp hpin => ?_⟩
  have hmapped : mapped p s = some (Const.defaultBrightness p.toNat) := by
    rw [mapped_of_le hp, hmap, defaultBrightnessMap_getElem? hp]
  refine ⟨_, exec_bright_of_mapped hmapped pin, ?_⟩
  rw [emit_of_valid_pin rfl hpin]
  rfl

/-! ### One tick (41_decoder.md R120 to R127, R135) -/

theorem idle_not_mem_events (i : Instr) (s : State) (n : Nat) : Event.idle n ∉ Instr.events i s := by
  cases i <;> simp [Instr.events, pulseSequence]

/-- A tick that reads adds events to the trace, none of them an idle yield. -/
theorem no_idle_of_tickPath {s t : State} (hpath : TickPath s t) (hne : s.rxq ≠ []) :
    ∃ es, t.trace = s.trace ++ es ∧ ∀ n, Event.idle n ∉ es := by
  cases hpath with
  | idle h => exact absurd h hne
  | short _ _ => exact ⟨[], (List.append_nil _).symm, fun _ => List.not_mem_nil⟩
  | @operation _ _ i _ _ =>
    obtain ⟨fs, hfs, htrace⟩ := emitAll_trace_prefix (Instr.events i (rxRead frameBytes (clearFb s)))
      (Instr.source i (rxRead frameBytes (clearFb s)))
    exact ⟨fs, by rw [clearFb_trace, htrace, source_trace]; rfl,
      fun n hn => idle_not_mem_events i _ n (hfs.subset hn)⟩
  | @unassigned f _ _ _ => exact ⟨[.diag f.kind], rfl, by simp⟩

/-- Settles O25: the idle path of the tick, and the three that read. -/
theorem idleExactlyWhenStreamEmpty : Obligations.IdleExactlyWhenStreamEmpty := by
  intro s hf
  refine ⟨fun hnil => tick_of_rxq_nil hf hnil, fun hne => ?_⟩
  obtain ⟨t, ht, hpath⟩ := tick_of_fault_clear hf
  obtain ⟨es, htrace, hidle⟩ := no_idle_of_tickPath hpath hne
  exact ⟨t, es, ht, htrace, hidle⟩

/-- Settles O26: a read that does not fill FB takes all there is. -/
theorem shortReadDropsBytes : Obligations.ShortReadDropsBytes := by
  intro s hf hpos hle
  have htake : s.rxq.take frameBytes = s.rxq := List.take_of_length_le (Nat.le_succ_of_le hle)
  have hdrop : s.rxq.drop frameBytes = [] := List.drop_of_length_le (Nat.le_succ_of_le hle)
  have hread : rxRead frameBytes (clearFb s) =
      { s with rxq := [], fb := s.rxq, rxpos := s.rxpos + s.rxq.length } := by
    simp only [rxRead, clearFb_rxq, htake, hdrop]
    rfl
  rw [tick_of_short hf (List.length_pos_iff.1 hpos) (Nat.lt_succ_of_le hle), hread]
  rfl

/-- Settles O27: the whole frame is read, and its kind selects no operation. -/
theorem unknownKindOnlyReports : Obligations.UnknownKindOnlyReports := by
  intro f rest s hf hrxq hkind
  rw [tick_of_unassigned hf hrxq ((decode_eq_none_iff f).2 hkind), rxRead_frame (s := clearFb s) hrxq]
  rfl

/-- Settles O28: the read leaves the frame in FB, and the frame selects the operation. -/
theorem stepRunsDecodedOperation : Obligations.StepRunsDecodedOperation := by
  intro i rest s s' htake hf hdecode
  obtain ⟨f, hrxq, hd⟩ := decodeBytes_eq_operation hdecode
  have hfb : s'.rxq.take 5 = ser f := by rw [hrxq]; exact List.take_left' (ser_length f)
  rw [step_eq htake, hfb]
  refine (tick_of_frame hf hrxq).trans ?_
  rw [dispatchFrame, hd, rxRead_frame (s := clearFb s') hrxq]
  rfl

theorem fb_of_tickPath {s t : State} (hpath : TickPath s t) : t.fb = [] := by
  cases hpath <;> rfl

/-- Settles O29: every path of the tick reads once. -/
theorem tickReadsAtMostOneFrame : Obligations.TickReadsAtMostOneFrame := by
  intro s t h
  obtain ⟨-, hpath⟩ := tick_eq_next h
  have hframing := framing_of_tickPath hpath
  simp only [State.framing, Prod.mk.injEq] at hframing
  obtain ⟨hrxq, -, -, -, -⟩ := hframing
  exact ⟨hrxq.trans List.drop_eq_drop_min, rxpos_of_tickPath hpath, fb_of_tickPath hpath⟩

/-! ### A frame split over two ticks (41_decoder.md R124) -/

/-- The state in which all of RXQ was read and dropped, with the stimuli then pending. -/
def State.afterDrop (xs : List Stimulus) (s : State) : State :=
  { s with
    rxq := [], fb := [], rxpos := s.rxpos + s.rxq.length,
    records := s.records ++ [.dropped s.rxq.length s.rxq], stimuli := xs }

/-- A pending tick that finds 1 to 4 bytes drops them. -/
theorem step_of_short {s : State} {xs : List Stimulus} (hpending : s.stimuli = .tick :: xs) (hf : s.fault = false)
    (hpos : 1 ≤ s.rxq.length) (hle : s.rxq.length ≤ 4) : step s = .next (s.afterDrop xs) := by
  rw [step_eq (takeStimulus_cons hpending)]
  exact shortReadDropsBytes { s with stimuli := xs } hf hpos hle

theorem step_of_deliver {s : State} {n : Nat} {xs : List Stimulus} (hpending : s.stimuli = .deliver n :: xs) :
    step s = .next (channelDeliver n { s with stimuli := xs }) := by
  rw [step_eq (takeStimulus_cons hpending)]
  rfl

/-- The three steps of an arrival in two parts, each shorter than a frame. -/
theorem steps_of_split_arrival {s : State} {n : Nat} (hpending : s.stimuli = [.tick, .deliver n, .tick])
    (hf : s.fault = false) (hpos : 1 ≤ s.rxq.length) (hle : s.rxq.length ≤ 4) (hpos' : 1 ≤ (s.transit.take n).length)
    (hle' : (s.transit.take n).length ≤ 4) :
    steps 3 s = .next ((channelDeliver n (s.afterDrop [.tick])).afterDrop []) := by
  have hfirst := step_of_short hpending hf hpos hle
  have hdeliver := step_of_deliver (s := s.afterDrop [.deliver n, .tick]) rfl
  have hsecond := step_of_short (s := channelDeliver n (s.afterDrop [.tick])) rfl hf hpos' hle'
  exact (steps_succ_of_next hfirst 2).trans ((steps_succ_of_next hdeliver 1).trans (steps_succ_of_next hsecond 0))

/-- Settles O32: a short read, the delivery of the other bytes, and a short read of those. -/
theorem splitFrameIsLost : Obligations.SplitFrameIsLost := by
  intro i k s hf hpos hle hrxq htransit hpending
  have hlen : (encode i).length = 5 := encode_length i
  have hfirst : s.rxq.length = k := by rw [hrxq, List.length_take]; omega
  have hsecond : s.transit.length = 5 - k := by rw [htransit, List.length_drop, hlen]
  have hall : s.transit.take (5 - k) = s.transit := List.take_of_length_le hsecond.le
  have hnone : s.transit.drop (5 - k) = [] := List.drop_of_length_le hsecond.le
  refine ⟨_, steps_of_split_arrival hpending hf (by omega) (by omega) (by rw [hall]; omega) (by rw [hall]; omega),
    rfl, rfl, hnone, ?rxpos, ?records⟩
  case rxpos =>
    simp only [State.afterDrop, channelDeliver, List.nil_append, hall, hfirst, hsecond]
    omega
  case records =>
    simp [State.afterDrop, channelDeliver, hall, hfirst, hsecond, ← hrxq, ← htransit]

/-! ### The executors see neither the stream nor the pending stimuli -/

/-- The state with other bytes to read, another count of the bytes read, and other stimuli pending. -/
def State.withInput (rxq : List Byte) (rxpos : Nat) (xs : List Stimulus) (s : State) : State :=
  { s with rxq := rxq, rxpos := rxpos, stimuli := xs }

section WithInput

variable (rxq : List Byte) (rxpos : Nat) (xs : List Stimulus)

theorem brightness_withInput (pct : Param2) (s : State) :
    brightness pct (s.withInput rxq rxpos xs) =
      ((brightness pct s).1, (brightness pct s).2.withInput rxq rxpos xs) := by
  have hm : mapped pct (s.withInput rxq rxpos xs) = mapped pct s := rfl
  cases h : mapped pct s with
  | some v => rw [brightness_of_mapped h, brightness_of_mapped (hm.trans h)]
  | none => rw [brightness_of_unmapped h, brightness_of_unmapped (hm.trans h)]; rfl

theorem emitAll_withInput (es : List Event) (s : State) :
    emitAll es (s.withInput rxq rxpos xs) = (emitAll es s).withInput rxq rxpos xs := by
  induction es generalizing s with
  | nil => rfl
  | cons e es ih =>
    have ha : e.accepted (s.withInput rxq rxpos xs) = e.accepted s := Event.accepted_congr rfl
    unfold emitAll
    rw [ha]
    split
    · exact ih (applyEvent e s)
    · rfl

theorem events_withInput (i : Instr) (s : State) : Instr.events i (s.withInput rxq rxpos xs) = Instr.events i s := by
  cases i with
  | bright pin percent => simp [Instr.events, brightness_withInput]
  | pinmode pin mode => rfl
  | pinwrite pin level => rfl
  | waitus duration => rfl
  | pulse pin => rfl

theorem source_withInput (i : Instr) (s : State) :
    Instr.source i (s.withInput rxq rxpos xs) = (Instr.source i s).withInput rxq rxpos xs := by
  cases i with
  | bright pin percent => simp [Instr.source, brightness_withInput]
  | pinmode pin mode => rfl
  | pinwrite pin level => rfl
  | waitus duration => rfl
  | pulse pin => rfl

theorem exec_withInput {i : Instr} {s u : State} (h : exec i s = .next u) :
    exec i (s.withInput rxq rxpos xs) = .next (u.withInput rxq rxpos xs) := by
  rw [exec_eq, events_withInput, source_withInput, emitAll_withInput, ← exec_eq_next h]

end WithInput

/-- A tick on an operation's frame gives what the operation gives where it stands, but for the bytes read. -/
theorem tick_of_encode {s u : State} {i : Instr} {rest : List Byte} (hf : s.fault = false)
    (hrxq : s.rxq = encode i ++ rest) (hexec : exec i s = .next u) :
    tick s = .next ((clearFb u).withInput rest (s.rxpos + 5) s.stimuli) := by
  have hclear : exec i (clearFb s) = .next (clearFb u) := by rw [← onNext_clearFb_exec, hexec]; rfl
  exact (tick_eq_exec hf hrxq (decode_toFrame i)).trans (exec_withInput rest (s.rxpos + 5) s.stimuli hclear)

/-! ### A tick under the arrival premise (41_decoder.md R137) -/

/-- Where bytes have arrived, a whole frame has, and it is the first one on the stream. -/
theorem rxq_of_holdsFrames {s : State} {is : List Instr} (hframes : s.stream = frames is)
    (hwhole : s.wholeArrival = true) (hne : s.rxq ≠ []) :
    ∃ i js rest, is = i :: js ∧ s.rxq = encode i ++ rest ∧ rest ++ s.transit ++ s.txq = frames js := by
  have hlen : frameBytes ≤ s.rxq.length :=
    ((wholeArrival_iff s).1 hwhole).resolve_left (List.length_pos_iff.2 hne).ne'
  unfold State.stream at hframes
  cases is with
  | nil =>
    obtain ⟨harrived, -⟩ := List.append_eq_nil_iff.1 hframes
    exact absurd (List.append_eq_nil_iff.1 harrived).1 hne
  | cons i js =>
    rw [frames_cons, List.append_assoc] at hframes
    obtain ⟨rest, hrxq⟩ : encode i <+: s.rxq :=
      List.prefix_of_prefix_length_le ⟨_, hframes.symm⟩ ⟨_, rfl⟩ hlen
    refine ⟨i, js, rest, rfl, hrxq.symm, ?_⟩
    rw [← hrxq, List.append_assoc] at hframes
    rw [List.append_assoc]
    exact List.append_cancel_left hframes

/-- Settles O44: with RXQ empty the tick idles; otherwise the first frame on the stream has arrived whole. -/
theorem tickExecutesTheNextFrame : Obligations.TickExecutesTheNextFrame := by
  intro is s s' htake hf hframes hwhole
  rw [step_eq htake]
  by_cases hnil : s'.rxq = []
  · exact ⟨_, tick_of_rxq_nil hf hnil, hf, .inl ⟨hnil, hframes, rfl, rfl⟩⟩
  · obtain ⟨hstream, hpins⟩ := hframes
    obtain ⟨i, js, rest, rfl, hrxq, hrest⟩ := rxq_of_holdsFrames hstream hwhole hnil
    obtain ⟨hi, hjs⟩ := List.forall_mem_cons.1 hpins
    obtain ⟨u, hexec⟩ : ∃ u, exec i s' = .next u := ⟨_, exec_eq i s'⟩
    have hrest' : rest ++ u.transit ++ u.txq = rest ++ s'.transit ++ s'.txq :=
      exec_unchanged (fun t => rest ++ t.transit ++ t.txq) (fun _ _ => rfl) (fun _ => rfl) (fun _ _ => rfl) hexec
    exact ⟨_, tick_of_encode hf hrxq hexec, (fault_of_exec_of_accepted hexec hi).trans hf,
      .inr ⟨i, js, u, rfl,
        ⟨hrest'.trans hrest, fun j hj => (pinAccepted_congr (validPins_of_exec hexec)).trans (hjs j hj)⟩,
        rfl, hexec, rfl, rfl, rfl, rfl⟩⟩

/-! ### The tick loop (41_decoder.md R137) -/

/-- A pending tick on an operation's frame, seen from the state the operation is carried out in directly. -/
theorem step_withInput {i : Instr} {s u : State} (hf : s.fault = false) (hfb : u.fb = []) (hexec : exec i s = .next u)
    (rest : List Byte) (pos : Nat) (xs : List Stimulus) :
    step (s.withInput (encode i ++ rest) pos (.tick :: xs)) = .next (u.withInput rest (pos + 5) xs) := by
  have hclear : clearFb u = u := by rw [clearFb, ← hfb]
  have htick := tick_of_encode (s := s.withInput (encode i ++ rest) pos xs) hf rfl (exec_withInput _ _ _ hexec)
  rw [step_eq (takeStimulus_cons rfl)]
  refine htick.trans ?_
  rw [← congrArg (State.withInput rest (pos + 5) xs) hclear]
  rfl

/-- The ticks keep step with the direct execution, whatever of the stream is still to be read. -/
theorem steps_withInput {is : List Instr} {s : State} (hf : s.fault = false) (hfb : s.fb = [])
    (hpins : ∀ i ∈ is, Instr.pinAccepted i s = true) (rest : List Byte) (pos : Nat) (xs : List Stimulus) :
    ∃ u, runDirect is s = .next u ∧ u.fault = false ∧
      steps is.length (s.withInput (frames is ++ rest) pos (List.replicate is.length .tick ++ xs)) =
        .next (u.withInput rest (pos + 5 * is.length) xs) := by
  induction is generalizing s pos with
  | nil => exact ⟨s, rfl, hf, rfl⟩
  | cons i is ih =>
    obtain ⟨hi, his⟩ := List.forall_mem_cons.1 hpins
    obtain ⟨u, hexec⟩ : ∃ u, exec i s = .next u := ⟨_, exec_eq i s⟩
    have hfbu : u.fb = [] := (fb_of_exec hexec).trans hfb
    have hfu : u.fault = false := (fault_of_exec_of_accepted hexec hi).trans hf
    have hstep := step_withInput hf hfbu hexec (frames is ++ rest) pos (List.replicate is.length .tick ++ xs)
    obtain ⟨v, hrun, hfv, hsteps⟩ :=
      ih hfu hfbu (fun j hj => (pinAccepted_congr (validPins_of_exec hexec)).trans (his j hj)) (pos + 5)
    refine ⟨v, by rw [runDirect, hexec]; exact hrun, hfv, ?_⟩
    have hpos : pos + 5 * (is.length + 1) = pos + 5 + 5 * is.length := by omega
    rw [frames_cons, List.append_assoc, List.length_cons, List.replicate_succ, hpos]
    exact (steps_succ_of_next hstep _).trans hsteps

/-- Settles O45: the loop starts where the frames stand at the front of RXQ and the ticks are pending. -/
theorem tickLoopRefinesDirectExecution : Obligations.TickLoopRefinesDirectExecution := by
  intro is rest xs s hf hfb hpending hpins hrxq
  obtain ⟨u, hrun, hfu, hsteps⟩ := steps_withInput hf hfb hpins rest s.rxpos xs
  refine ⟨u, hrun, hfu, ?_⟩
  rw [← hrxq, ← hpending] at hsteps
  exact hsteps

end Sys2Proof.Machine

/-! ## The family 60_exceptions.md: where the machine has no next state -/

namespace Sys2Proof.Machine

/-- Only the fault mark stops a tick (60_exceptions.md R164). -/
theorem exists_tick_eq_next_iff (s : State) : (∃ t, tick s = .next t) ↔ s.fault = false := by
  refine ⟨fun ⟨_, h⟩ => (tick_eq_next h).1, fun hf => ?_⟩
  obtain ⟨t, ht, _⟩ := tick_of_fault_clear hf
  exact ⟨t, ht⟩

/-- Only an operand too wide for the port stops a request (40_encoder.md R108). -/
theorem exists_encoderRequest_eq_next_iff (r : Request) (s : State) :
    (∃ t, encoderRequest r s = .next t) ↔ r.wellFormed = true := by
  refine ⟨fun ⟨_, h⟩ => ?_, (tooWideRequestIsRefused r s).1⟩
  obtain ⟨i, hi, _⟩ := encoderRequest_eq_next h
  rw [← operation_isSome, hi, Option.isSome_some]

/-- Only a lossless channel stops a replacement (20_memory.md R57). -/
theorem exists_channelGarble_eq_next_iff (n : Nat) (bs : List Byte) (s : State) :
    (∃ t, channelGarble n bs s = .next t) ↔ s.channelLossless = false :=
  ⟨fun ⟨_, h⟩ => (channelGarble_eq_next h).1, fun h => ⟨_, channelGarble_of_lossy n bs h⟩⟩

/-- Settles O38: a step runs one stimulus; three kinds of stimulus have a condition, one each, and the others have none. -/
theorem stepStopsOnlyByName : Obligations.StepStopsOnlyByName := by
  intro s s' x htake
  rw [step_eq htake]
  cases x with
  | tick => simpa [runStimulus] using exists_tick_eq_next_iff s'
  | request r => simpa [runStimulus] using exists_encoderRequest_eq_next_iff r s'
  | garble n bs => simpa [runStimulus] using exists_channelGarble_eq_next_iff n bs s'
  | carry n => simp [runStimulus]
  | deliver n => simp [runStimulus]
  | resetDecoder rxq0 startOffset idleInterval => simp [runStimulus]
  | resetEncoder txq0 => simp [runStimulus]

end Sys2Proof.Machine

/-! ## The family 70_reset_and_hazards.md: the two devices apart, reset, the start, the initialization sequence -/

namespace Sys2Proof.Machine

/-! ### Nothing comes back to the sender (70_reset_and_hazards.md R202) -/

/-- The sender and the channel, with what is still to come to them. -/
def State.senderSide (s : State) := (s.txDest, s.ef, s.txq, s.transit, s.stimuli)

theorem senderSide_of_tickPath {s t : State} (hpath : TickPath s t) : t.senderSide = s.senderSide := by
  cases hpath with
  | idle _ => rfl
  | short _ _ => rfl
  | @operation _ _ i _ _ =>
    exact (exec_unchanged State.senderSide (fun _ _ => rfl) (fun _ => rfl) (fun _ _ => rfl)
      (exec_eq i (rxRead frameBytes (clearFb s))) :)
  | unassigned _ _ => rfl

/-- Settles O12: whether the port takes a request is decided by the request, and no path of a tick writes the sender's
side. -/
theorem receiverCannotInfluenceSender : Obligations.ReceiverCannotInfluenceSender := by
  refine ⟨fun r s₁ s₂ _ htxq => ?_, fun s t h => ?_⟩
  · cases hi : Request.operation r with
    | some i =>
      exact .inl ⟨_, _, encoderRequest_of_operation hi s₁, encoderRequest_of_operation hi s₂,
        congrArg (· ++ ser i.toFrame) htxq⟩
    | none => exact .inr ⟨encoderRequest_of_operation_none hi s₁, encoderRequest_of_operation_none hi s₂⟩
  · have hsender := senderSide_of_tickPath (tick_eq_next h).2
    simpa only [State.senderSide, Prod.mk.injEq] using hsender

/-! ### One frame a tick (70_reset_and_hazards.md R199) -/

/-- Short of a reset of the decoder only a tick reads, and a tick reads at most one frame. -/
theorem rxpos_le_of_stimulusEffect {s t : State} {x : Stimulus} (h : StimulusEffect s x t)
    (hx : x.resetsDecoder = false) : t.rxpos ≤ s.rxpos + 5 * [x].count .tick := by
  cases h with
  | tick _ hpath =>
    rw [rxpos_of_tickPath hpath]
    exact Nat.add_le_add_left (min_le_left _ _) _
  | request _ => simp [encoderWrite_eq]
  | carry n => exact Nat.le_add_right _ _
  | deliver n => exact Nat.le_add_right _ _
  | garble n bs _ => exact Nat.le_add_right _ _
  | resetEncoder txq0 => exact Nat.le_add_right _ _
  | resetDecoder rxq0 startOffset idleInterval => cases hx

theorem rxpos_le_of_steps {n : Nat} {s t : State} (h : steps n s = .next t)
    (hx : ∀ x ∈ taken n s, x.resetsDecoder = false) : t.rxpos ≤ s.rxpos + 5 * (taken n s).count .tick := by
  induction n generalizing s with
  | zero =>
    obtain rfl := Host.Outcome.next.inj h
    exact Nat.le_add_right _ _
  | succ n ih =>
    obtain ⟨u, hstep, hsteps⟩ := steps_succ_eq_next h
    obtain ⟨xs, heffect⟩ := step_eq_next hstep
    rw [taken_succ_of_next hstep] at hx ⊢
    obtain ⟨hfirst, hrest⟩ := List.forall_mem_cons.1 hx
    have hu : u.rxpos ≤ s.rxpos + 5 * [(takeStimulus s).1].count .tick :=
      (rxpos_le_of_stimulusEffect heffect hfirst :)
    have ht := ih hsteps hrest
    rw [← List.singleton_append, List.count_append]
    omega

/-- Settles O39: by induction on the run, RXPOS grows by at most one frame for each tick taken. -/
theorem framesNeedAsManyTicks : Obligations.FramesNeedAsManyTicks := by
  intro n s t h hx
  have hbound := rxpos_le_of_steps h hx
  exact ⟨hbound, fun m hm => by omega⟩

/-! ### Reset of the decoder (70_reset_and_hazards.md R190, R191) -/

/-- Settles O41: `resetDecoderHalf` writes R41's values and no field of the sender. -/
theorem decoderResetClearsFault : Obligations.DecoderResetClearsFault := by
  intro bs o n s s' htake
  exact ⟨resetDecoderHalf bs o n s', step_eq htake, rfl, rfl, rfl, rfl, rfl, fun _ => ⟨rfl, rfl, rfl⟩, rfl, rfl, rfl,
    rfl, rfl⟩

/-! ### Where the decoder starts (70_reset_and_hazards.md R192) -/

/-- A decoder that has read nothing is aligned where its start and the breaks before its first byte make whole frames. -/
theorem aligned_iff_of_rxpos_zero {s : State} (h : s.rxpos = 0) :
    s.aligned = true ↔ (s.startOffset + netUpTo 0 s.slips) % 5 = 0 := by
  have h5 : ((frameBytes : Nat) : Int) = 5 := rfl
  rw [aligned_iff, State.readOffset, h, h5]
  simp

/-- A break behind bytes still to be read does not count at the first of them. -/
theorem netUpTo_zero_slipTo_behind {ahead : Nat} (h : ahead ≠ 0) (here place : Int) :
    netUpTo 0 (slipTo ahead here place) = 0 := by
  rw [netUpTo_slipTo, if_neg (by omega)]

/-- A break at the decoder's first byte brings its start to the place the break is made for. -/
theorem netUpTo_zero_slipTo_first (here place : Int) :
    (here + netUpTo 0 (slipTo 0 here place) - place) % 5 = 0 := by
  rw [netUpTo_slipTo, if_pos le_rfl]
  exact netAll_slipTo 0 here place

/-- The breaks behind offset `a`, moved so that `a` becomes `b`, all stand behind the first byte. -/
theorem netUpTo_zero_moved_behind (a b : Nat) (xs : List Slip) :
    netUpTo 0 ((xs.filter fun x => decide (a < x.pos)).map fun x => { x with pos := x.pos - a + b }) = 0 := by
  induction xs with
  | nil => rfl
  | cons x xs ih =>
    rw [List.filter_cons]
    split
    next hx =>
      have hpos : a < x.pos := of_decide_eq_true hx
      rw [List.map_cons, netUpTo_cons, ih, if_neg (by simp only []; omega), add_zero]
    next => exact ih

/-- What was noted further on in the channel stays behind a decoder that starts anew. -/
theorem netUpTo_zero_slipsAfterReset (ahead start : Nat) (s : State) :
    netUpTo 0 (slipsAfterReset ahead start s) = netUpTo 0 (slipTo ahead (start + ahead) s.transitPlace) := by
  rw [slipsAfterReset, netUpTo_append, netUpTo_zero_moved_behind, add_zero]

/-- Settles O54: what stands in RXQ0 is at the place given, and an empty RXQ0 is followed at once by the break that brings
the decoder to the place of the first byte still to arrive. -/
theorem misalignedStart : Obligations.MisalignedStart := by
  refine ⟨fun p hrxq => ?_, fun p hrxq => ?_, fun bs o n s hbs => ?_, fun o n s => ?_⟩
  · have hslips : netUpTo 0 (State.construct p).slips = 0 := netUpTo_zero_slipTo_behind (by simpa using hrxq) _ _
    rw [aligned_iff_of_rxpos_zero rfl, hslips]
    simp only [State.construct]
    omega
  · have hbreak := netUpTo_zero_slipTo_first p.startOffset (-(p.transit0.length + p.txq0.length : Int))
    rw [aligned_iff_of_rxpos_zero rfl]
    simp only [State.construct, hrxq, List.length_nil, Nat.cast_zero, add_zero]
    omega
  · rw [aligned_iff_of_rxpos_zero rfl, resetDecoderHalf_slips, netUpTo_zero_slipsAfterReset,
      netUpTo_zero_slipTo_behind (by simpa using hbs), resetDecoderHalf_startOffset]
    omega
  · have hbreak := netUpTo_zero_slipTo_first o s.transitPlace
    rw [aligned_iff_of_rxpos_zero rfl, resetDecoderHalf_slips, netUpTo_zero_slipsAfterReset, resetDecoderHalf_startOffset]
    simp only [List.length_nil, Nat.cast_zero, add_zero]
    omega

/-! ### The operations a list of requests asks for -/

/-- A request's operation, each operand taken at the width of its field. -/
def Request.atWidth : Request → Instr
  | .setPinMode pin mode => .pinmode (BitVec.ofNat pinBits pin) (BitVec.ofNat p2Bits mode)
  | .setPinLevel pin level => .pinwrite (BitVec.ofNat pinBits pin) (BitVec.ofNat p2Bits level)
  | .waitMicroseconds duration => .waitus (BitVec.ofNat durBits duration)
  | .pulseEnable pin => .pulse (BitVec.ofNat pinBits pin)
  | .setBrightness pin percent => .bright (BitVec.ofNat pinBits pin) (BitVec.ofNat p2Bits percent)

theorem operation_of_wellFormed {r : Request} (h : r.wellFormed = true) :
    Request.operation r = some (Request.atWidth r) := by
  cases r with
  | setPinMode pin mode =>
    obtain ⟨hpin, hmode⟩ := Bool.and_eq_true_iff.1 h
    simp [Request.operation, Request.atWidth, portOperand_of_fits hpin, portOperand_of_fits hmode]
  | setPinLevel pin level =>
    obtain ⟨hpin, hlevel⟩ := Bool.and_eq_true_iff.1 h
    simp [Request.operation, Request.atWidth, portOperand_of_fits hpin, portOperand_of_fits hlevel]
  | waitMicroseconds duration => simp [Request.operation, Request.atWidth, portOperand_of_fits h]
  | pulseEnable pin => simp [Request.operation, Request.atWidth, portOperand_of_fits h]
  | setBrightness pin percent =>
    obtain ⟨hpin, hpercent⟩ := Bool.and_eq_true_iff.1 h
    simp [Request.operation, Request.atWidth, portOperand_of_fits hpin, portOperand_of_fits hpercent]

/-- Where the port takes a request, it asks for its operation at the fields' widths. -/
theorem operation_eq_atWidth {r : Request} {i : Instr} (h : Request.operation r = some i) : i = Request.atWidth r := by
  have hfits : r.wellFormed = true := by rw [← operation_isSome, h, Option.isSome_some]
  exact Option.some.inj (h.symm.trans (operation_of_wellFormed hfits))

theorem operations_eq_map_atWidth {rs : List Request} {is : List Instr}
    (h : rs.map Request.operation = is.map some) : is = rs.map Request.atWidth := by
  induction rs generalizing is with
  | nil => exact List.map_eq_nil_iff.1 h.symm
  | cons r rs ih =>
    obtain ⟨i, is, rfl, hi, his⟩ := List.map_eq_cons_iff.1 h.symm
    rw [List.map_cons, operation_eq_atWidth hi.symm, ih his.symm]

/-! ### Outputs before drives (70_reset_and_hazards.md R196) -/

/-- The request configures no pin, and where it writes a level or pulses, it does so on one of the pins `ns`. -/
def Request.drivesOnly (ns : List Nat) : Request → Prop
  | .setPinMode _ _ => False
  | .setPinLevel pin _ => pin ∈ ns
  | .waitMicroseconds _ => True
  | .pulseEnable pin => pin ∈ ns
  | .setBrightness _ _ => True

theorem outputsFirst_of_drivesOnly {ns : List Nat} {outputs : List Pin} {rs : List Request}
    (hout : ∀ n ∈ ns, BitVec.ofNat pinBits n ∈ outputs) (h : ∀ r ∈ rs, Request.drivesOnly ns r) :
    outputsFirst outputs (rs.map Request.atWidth) = true := by
  induction rs with
  | nil => rfl
  | cons r rs ih =>
    obtain ⟨hr, hrs⟩ := List.forall_mem_cons.1 h
    have hrest := ih hrs
    cases r with
    | setPinMode pin mode => exact hr.elim
    | setPinLevel pin level => exact Bool.and_eq_true_iff.2 ⟨decide_eq_true (hout pin hr), hrest⟩
    | waitMicroseconds duration => exact hrest
    | pulseEnable pin => exact Bool.and_eq_true_iff.2 ⟨decide_eq_true (hout pin hr), hrest⟩
    | setBrightness pin percent => exact hrest

/-- The requests that make each of these pins an output. -/
def outputRequests (ns : List Nat) : List Request := ns.map fun n => .setPinMode n Const.output

theorem outputsFirst_outputRequests_append (ns : List Nat) (outputs : List Pin) (is : List Instr) :
    outputsFirst outputs ((outputRequests ns).map Request.atWidth ++ is) =
      outputsFirst ((ns.map (BitVec.ofNat pinBits)).reverse ++ outputs) is := by
  induction ns generalizing outputs with
  | nil => rfl
  | cons n ns ih =>
    have hfirst : outputsFirst outputs ((outputRequests (n :: ns)).map Request.atWidth ++ is) =
        outputsFirst (BitVec.ofNat pinBits n :: outputs) ((outputRequests ns).map Request.atWidth ++ is) := if_pos rfl
    rw [hfirst, ih, List.map_cons, List.reverse_cons, List.append_assoc, List.singleton_append]

/-- Making the pins outputs and then driving no others is in the order R196 asks for. -/
theorem outputsFirst_outputRequests_then_drives {ns : List Nat} {rs : List Request}
    (h : ∀ r ∈ rs, Request.drivesOnly ns r) :
    outputsFirst [] ((outputRequests ns ++ rs).map Request.atWidth) = true := by
  rw [List.map_append, outputsFirst_outputRequests_append]
  exact outputsFirst_of_drivesOnly (fun n hn => by simpa using ⟨n, hn, rfl⟩) h

/-! ### What the lines of a program drive (30_encoding.md R81) -/

/-- Every pin of the client's configuration. -/
def AsmPins.wired (p : AsmPins) : List Nat := p.rs :: p.e :: p.d ++ p.rw.toList

theorem drivesOnly_dataWrites {w : Nat} (v : BitVec w) (i : Nat) {ds ns : List Nat} (h : ds ⊆ ns) :
    ∀ r ∈ dataWrites v i ds, Request.drivesOnly ns r := by
  induction ds generalizing i with
  | nil => exact List.forall_mem_nil _
  | cons d ds ih =>
    obtain ⟨hd, hds⟩ := List.cons_subset.1 h
    exact List.forall_mem_cons.2 ⟨hd, ih (i + 1) hds⟩

/-- The data lines of a pseudo-operation are the first pins of D. -/
theorem take_d_subset_wired (n : Nat) (p : AsmPins) : p.d.take n ⊆ p.wired := by
  intro d hd
  have hmem : d ∈ p.d := List.mem_of_mem_take hd
  simp [AsmPins.wired, hmem]

theorem drivesOnly_pulse_e (p : AsmPins) : ∀ r ∈ [Request.pulseEnable p.e], Request.drivesOnly p.wired r := by
  simp [Request.drivesOnly, AsmPins.wired]

theorem drivesOnly_nibbleRequests (p : AsmPins) (n : BitVec 4) :
    ∀ r ∈ nibbleRequests p n, Request.drivesOnly p.wired r :=
  List.forall_mem_append.2 ⟨drivesOnly_dataWrites n 0 (take_d_subset_wired 4 p), drivesOnly_pulse_e p⟩

theorem drivesOnly_selectRequests (p : AsmPins) (rs : Bool) :
    ∀ r ∈ selectRequests p rs, Request.drivesOnly p.wired r := by
  refine List.forall_mem_cons.2 ⟨List.mem_cons_self, List.forall_mem_map.2 fun w hw => ?_⟩
  exact List.mem_append_right (p.rs :: p.e :: p.d) hw

/-- A pseudo-operation drives only configured pins; so a line does, if it does where it is a single request. -/
theorem drivesOnly_of_requests {p : AsmPins} {l : AsmLine} {rs : List Request}
    (hop : ∀ r, l = .op r → Request.drivesOnly p.wired r) (h : AsmLine.requests p l = some rs) :
    ∀ r ∈ rs, Request.drivesOnly p.wired r := by
  cases l with
  | op r =>
    obtain rfl := Option.some.inj h
    exact List.forall_mem_singleton.2 (hop r rfl)
  | frame k a b => cases h
  | bytes bs => cases h
  | nibble n =>
    obtain ⟨-, ⟨⟩⟩ := Option.ite_none_right_eq_some.1 h
    exact drivesOnly_nibbleRequests p n
  | send4 v data =>
    obtain ⟨-, ⟨⟩⟩ := Option.ite_none_right_eq_some.1 h
    exact List.forall_mem_append.2 ⟨List.forall_mem_append.2 ⟨drivesOnly_selectRequests p data,
      drivesOnly_nibbleRequests p _⟩, drivesOnly_nibbleRequests p _⟩
  | send8 v data =>
    obtain ⟨-, ⟨⟩⟩ := Option.ite_none_right_eq_some.1 h
    exact List.forall_mem_append.2 ⟨List.forall_mem_append.2 ⟨drivesOnly_selectRequests p data,
      drivesOnly_dataWrites v 0 (take_d_subset_wired 8 p)⟩, drivesOnly_pulse_e p⟩

theorem programRequests_cons_eq_some {p : AsmPins} {l : AsmLine} {ls : List AsmLine} {rs : List Request}
    (h : programRequests p (l :: ls) = some rs) :
    ∃ qs qs', AsmLine.requests p l = some qs ∧ programRequests p ls = some qs' ∧ qs ++ qs' = rs := by
  simpa [programRequests, Option.bind_eq_some_iff] using h

theorem drivesOnly_of_programRequests {p : AsmPins} {ls : List AsmLine} {rs : List Request}
    (hops : ∀ r, .op r ∈ ls → Request.drivesOnly p.wired r) (h : programRequests p ls = some rs) :
    ∀ r ∈ rs, Request.drivesOnly p.wired r := by
  induction ls generalizing rs with
  | nil =>
    obtain rfl := Option.some.inj h
    exact List.forall_mem_nil _
  | cons l ls ih =>
    obtain ⟨qs, qs', hl, hls, rfl⟩ := programRequests_cons_eq_some h
    exact List.forall_mem_append.2 ⟨drivesOnly_of_requests (fun r hr => hops r (hr ▸ List.mem_cons_self)) hl,
      ih (fun r hr => hops r (List.mem_cons_of_mem _ hr)) hls⟩

/-- A program that begins with single requests expands to these and then what the rest expands to. -/
theorem programRequests_ops_append {p : AsmPins} {qs rs : List Request} {ls : List AsmLine}
    (h : programRequests p (qs.map .op ++ ls) = some rs) : ∃ qs', programRequests p ls = some qs' ∧ rs = qs ++ qs' := by
  induction qs generalizing rs with
  | nil => exact ⟨rs, h, rfl⟩
  | cons q qs ih =>
    obtain ⟨_, rs', hq, hrest, rfl⟩ := programRequests_cons_eq_some h
    obtain rfl := Option.some.inj hq
    obtain ⟨qs', hls, rfl⟩ := ih hrest
    exact ⟨qs', hls, rfl⟩

/-! ### The initialization sequence (70_reset_and_hazards.md R195) -/

/-- The sequence from the power-up wait on, after every pin has been made an output. -/
def InitPlan.drivingLines (p : InitPlan) : List AsmLine :=
  waitLines p.powerUpUs ++ [.op (.setPinLevel p.pins.rs Const.low), .op (.setPinLevel p.pins.e Const.low)] ++
    p.negotiationLines ++ [p.command p.functionSet, p.command p.displayOn, p.command p.clear] ++
    waitLines p.clearUs ++ [p.command p.entryMode]

theorem lines_eq_outputs_append_driving (p : InitPlan) :
    p.lines = (outputRequests p.pins.wired).map .op ++ p.drivingLines := by
  have houtputs : p.outputLines = (outputRequests p.pins.wired).map .op := List.map_map.symm
  simp only [InitPlan.lines, InitPlan.prefixLines, InitPlan.drivingLines, houtputs, List.append_assoc]

/-- The single requests of a wait's lines are waits. -/
theorem exists_wait_of_op_mem_waitLines {r : Request} {us : Nat} (h : .op r ∈ waitLines us) :
    ∃ d, r = .waitMicroseconds d := by
  rw [waitLines, splitWait_eq_map] at h
  simp only [List.mem_map, AsmLine.op.injEq, exists_eq_right] at h
  obtain ⟨d, -, rfl⟩ := h
  exact ⟨d, rfl⟩

theorem op_ne_command (r : Request) (p : InitPlan) (v : Byte) : AsmLine.op r ≠ p.command v := by
  unfold InitPlan.command
  split <;> nofun

/-- The negotiation's single requests are its waits. -/
theorem exists_wait_of_op_mem_negotiationLines {r : Request} {p : InitPlan} (h : .op r ∈ p.negotiationLines) :
    ∃ d, r = .waitMicroseconds d := by
  have hwait : .op r ∈ waitLines p.firstUs ∨ .op r ∈ waitLines p.secondUs ∨ .op r ∈ waitLines p.thirdUs := by
    unfold InitPlan.negotiationLines at h
    split at h <;> simpa [op_ne_command, or_assoc] using h
  obtain h | h | h := hwait
  all_goals exact exists_wait_of_op_mem_waitLines h

theorem drivesOnly_of_wait {r : Request} (h : ∃ d, r = .waitMicroseconds d) (ns : List Nat) :
    Request.drivesOnly ns r := by
  obtain ⟨d, rfl⟩ := h
  trivial

/-- After the outputs, the sequence's single requests are waits and the level writes that put RS and E low. -/
theorem drivesOnly_of_op_mem_drivingLines {r : Request} {p : InitPlan} (h : .op r ∈ p.drivingLines) :
    Request.drivesOnly p.pins.wired r := by
  have hcases : .op r ∈ waitLines p.powerUpUs ∨ r = .setPinLevel p.pins.rs Const.low ∨
      r = .setPinLevel p.pins.e Const.low ∨ .op r ∈ p.negotiationLines ∨ .op r ∈ waitLines p.clearUs := by
    simpa [InitPlan.drivingLines, op_ne_command, or_assoc] using h
  obtain h | rfl | rfl | h | h := hcases
  · exact drivesOnly_of_wait (exists_wait_of_op_mem_waitLines h) _
  · exact List.mem_cons_self
  · exact List.mem_cons_of_mem _ List.mem_cons_self
  · exact drivesOnly_of_wait (exists_wait_of_op_mem_negotiationLines h) _
  · exact drivesOnly_of_wait (exists_wait_of_op_mem_waitLines h) _

/-- Settles O48: the sequence begins by making every configured pin an output, and drives no other pin after that. -/
theorem initSequenceSetsOutputsFirst : Obligations.InitSequenceSetsOutputsFirst := by
  intro p rs is hprogram hops
  rw [lines_eq_outputs_append_driving] at hprogram
  obtain ⟨qs, hdriving, rfl⟩ := programRequests_ops_append hprogram
  rw [operations_eq_map_atWidth hops]
  exact outputsFirst_outputRequests_then_drives
    (drivesOnly_of_programRequests (fun _ => drivesOnly_of_op_mem_drivingLines) hdriving)

end Sys2Proof.Machine
